-- ==== Sys2Proof/Word.lean ====
section
/-! DEFINITION. The bit-vector types of the block: a stream byte, a window register, a control register
or response word (00_scope R6, R8, R10). -/

namespace Sys2Proof

/-- A byte of CMD, SRC, SNK, BUF or a hash (10_state R39). -/
abbrev Byte := BitVec 8

/-- A register of a window state: `ACC_W` = 16 bits, wrapping (00_scope R6, 10_state R20, R21). -/
abbrev Half := BitVec 16

/-- A control register, a response word, an error value: 32 bits (00_scope R6, R8). -/
abbrev Word := BitVec 32

end Sys2Proof
end

