-- ==== Sys2Proof/Config.lean ====
section
/-! DEFINITION. What is fixed for the machine: the constants of 00_scope R6 and R8, and the open parameters
(00_scope R8, R9; 92_eei_decisions D26, D27, D36) as constants that have no body. -/

namespace Sys2Proof.Config

/-- `OFFSET`: added to every byte that enters a checksum (00_scope R6). -/
def offset : Nat := 31

/-- `MAGIC_VALUE`: the one format tag, hardwired (00_scope R6, 10_state R30). -/
def magicValue : Word := 0x72730137#32

/-- `HASH_LEN`: bytes of a strong hash (00_scope R6). -/
def hashLen : Nat := 32

/-- `BLOCK_LEN_DEFAULT` (00_scope R6). -/
def blockLenDefault : Word := 2048#32

/-- `STRONG_LEN_DEFAULT` (00_scope R6). -/
def strongLenDefault : Word := 32#32

/-- `HEADER_BYTES`: size of the signature header (00_scope R6). -/
def headerBytes : Nat := 12

/-- `CMD_HDR_BYTES`: size of a command header (00_scope R8). -/
def cmdHdrBytes : Nat := 8

/-- FREE VALUE (log 10): the strong hash `H`, a total function of its input bytes alone, of which nothing else
is assumed (00_scope R9, 20_memory R57). -/
opaque strongHash : List Byte → Vector Byte 32

/-- FREE VALUE (log 11): `BUF_CAP - 1`; the type keeps the spec's bound `1 <= BUF_CAP <= 2^32 - 1`. -/
opaque bufCapPred : Fin 4294967295

/-- `BUF_CAP`: the largest `BLOCK_LEN` the block buffer can hold (00_scope R8, 92_eei_decisions D26). -/
def bufCap : Nat := bufCapPred.val + 1

/-- FREE VALUE (log 12): what the sink holds after the n-th I/O error; "the contents of the sink are
unspecified" (20_memory R56). -/
opaque sinkAfterError : Nat → List Byte

end Sys2Proof.Config
end

