-- ==== Sys2Proof/Syntax.lean ====
section
/-! DEFINITION. The commands of RWC-CMD version 1: one constructor for each row of spec/opcode_table.json
(30_encoding R84), the eight numbered registers (10_state R29), and the two pseudo-commands (30_encoding R95). -/

namespace Sys2Proof

/-- One command with its operands (30_encoding R82, R83). -/
inductive Instr where
  /-- NEW -/
  | new
  /-- UPDATE: the payload bytes, `b_1` first; `LEN` is their number -/
  | update (payload : List Byte)
  /-- ROLL_IN c_in -/
  | rollIn (cIn : Byte)
  /-- ROLL_OUT c_out -/
  | rollOut (cOut : Byte)
  /-- ROTATE c_out, c_in -/
  | rotate (cOut cIn : Byte)
  /-- DIGEST -/
  | digest
  /-- WRREG BLOCK_LEN, value -/
  | wrregBlockLen (value : Word)
  /-- WRREG STRONG_LEN, value -/
  | wrregStrongLen (value : Word)
  /-- RDREG MAGIC -/
  | rdregMagic
  /-- RDREG BLOCK_LEN -/
  | rdregBlockLen
  /-- RDREG STRONG_LEN -/
  | rdregStrongLen
  /-- RDREG STATUS -/
  | rdregStatus
  /-- RDREG ERRINFO -/
  | rdregErrinfo
  /-- RDREG S1 -/
  | rdregS1
  /-- RDREG S2 -/
  | rdregS2
  /-- RDREG COUNT -/
  | rdregCount
  /-- GENERATE -/
  | generate
  deriving DecidableEq, Repr

/-- The eight control and status registers (10_state R29). -/
inductive Csr where
  | magic
  | blockLen
  | strongLen
  | status
  | errinfo
  | s1
  | s2
  | count
  deriving DecidableEq, Repr

/-- The pseudo-commands of 30_encoding R95. -/
inductive Pseudo where
  /-- FRESH bytestring -/
  | fresh (bytes : List Byte)
  /-- SETOPT block_len, strong_len -/
  | setopt (blockLen strongLen : Word)
  deriving DecidableEq, Repr

end Sys2Proof
end

