-- ==== Sys2Proof/WellFormed.lean ====
section
/-! DEFINITION. Which terms of `Instr` have an encoding: the payload of UPDATE is counted by the 32 bits of
`LEN` (30_encoding R83); every other operand fits its field by its type. -/

namespace Sys2Proof

/-- The bytes that follow the header (30_encoding R80, R82): UPDATE alone has any. -/
def Instr.payload : Instr → List Byte
  | .update payload => payload
  | .new => []
  | .rollIn _ => []
  | .rollOut _ => []
  | .rotate _ _ => []
  | .digest => []
  | .wrregBlockLen _ => []
  | .wrregStrongLen _ => []
  | .rdregMagic => []
  | .rdregBlockLen => []
  | .rdregStrongLen => []
  | .rdregStatus => []
  | .rdregErrinfo => []
  | .rdregS1 => []
  | .rdregS2 => []
  | .rdregCount => []
  | .generate => []

/-- `LEN` is an unsigned 32-bit count, "0 to 2^32 - 1" (30_encoding R83). -/
def Instr.wellFormed (i : Instr) : Bool := decide (i.payload.length < 4294967296)

end Sys2Proof
end

