-- ==== Sys2Proof/Decode.lean ====
section
/-! DEFINITION. The command encoding RWC-CMD version 1 (30_encoding R80 to R96): byte order, the header's five
fields, the seven formats, the decoder (total, rejecting by name), the encoder, and the opcode table of R84. -/

namespace Sys2Proof

/-! ### Byte order -/

/-- `BE32(v)`: the four bytes of a word, most significant first (00_scope R11). -/
def be32 (v : Word) : List Byte :=
  [v.extractLsb' 24 8, v.extractLsb' 16 8, v.extractLsb' 8 8, v.extractLsb' 0 8]

/-- The word whose bytes, most significant first, are these (30_encoding R81: `IMM` is big-endian). -/
def wordOfBytes (b3 b2 b1 b0 : Byte) : Word := b3 ++ b2 ++ b1 ++ b0

/-! ### The header -/

/-- The five fields of a command header (30_encoding R81). -/
structure Header where
  opc : Byte
  a : Byte
  b : Byte
  z : Byte
  imm : Word
  deriving DecidableEq, Repr

/-- The header as one 64-bit value: `OPC` in bits 63:56, `IMM` in bits 31:0 (30_encoding R81). -/
def Header.toBits (h : Header) : BitVec 64 := h.opc ++ h.a ++ h.b ++ h.z ++ h.imm

/-- The eight bytes on CMD, most significant first (30_encoding R80). -/
def Header.bytes (h : Header) : List Byte := h.opc :: h.a :: h.b :: h.z :: be32 h.imm

/-- The header read from a 64-bit value (30_encoding R81). -/
def headerOfBits (v : BitVec 64) : Header :=
  { opc := v.extractLsb' 56 8, a := v.extractLsb' 48 8, b := v.extractLsb' 40 8,
    z := v.extractLsb' 32 8, imm := v.extractLsb' 0 32 }

/-- `header[63:32]`: the bytes `OPC, A, B, Z`, the info word of an illegal command (30_encoding R91). -/
def Header.info (h : Header) : Word := wordOfBytes h.opc h.a h.b h.z

/-! ### Opcodes, formats and register numbers -/

/-- The nine commands (30_encoding R84). -/
inductive Opcode where
  | new
  | update
  | rollIn
  | rollOut
  | rotate
  | digest
  | wrreg
  | rdreg
  | generate
  deriving DecidableEq, Repr

/-- The `OPC` column of 30_encoding R84. -/
def Opcode.code : Opcode → Byte
  | .new => 0x01#8
  | .update => 0x02#8
  | .rollIn => 0x03#8
  | .rollOut => 0x04#8
  | .rotate => 0x05#8
  | .digest => 0x06#8
  | .wrreg => 0x10#8
  | .rdreg => 0x11#8
  | .generate => 0x20#8

/-- Which command an `OPC` byte names; the other 247 values name none (30_encoding R84, R93). -/
def opcodeOf (c : Byte) : Option Opcode :=
  if c = 0x01#8 then some .new
  else if c = 0x02#8 then some .update
  else if c = 0x03#8 then some .rollIn
  else if c = 0x04#8 then some .rollOut
  else if c = 0x05#8 then some .rotate
  else if c = 0x06#8 then some .digest
  else if c = 0x10#8 then some .wrreg
  else if c = 0x11#8 then some .rdreg
  else if c = 0x20#8 then some .generate
  else none

/-- The seven formats (30_encoding R82). -/
inductive Format where
  | N
  | L
  | I
  | O
  | X
  | W
  | Q
  deriving DecidableEq, Repr

/-- The format column of 30_encoding R84. -/
def Opcode.format : Opcode → Format
  | .new => .N
  | .update => .L
  | .rollIn => .I
  | .rollOut => .O
  | .rotate => .X
  | .digest => .N
  | .wrreg => .W
  | .rdreg => .Q
  | .generate => .N

/-- The "fields that must be 0" column of 30_encoding R82, `Z` apart. -/
def Format.unusedZero : Format → Header → Bool
  | .N, h => h.a == 0#8 && h.b == 0#8 && h.imm == 0#32
  | .L, h => h.a == 0#8 && h.b == 0#8
  | .I, h => h.a == 0#8 && h.imm == 0#32
  | .O, h => h.b == 0#8 && h.imm == 0#32
  | .X, h => h.imm == 0#32
  | .W, h => h.b == 0#8
  | .Q, h => h.b == 0#8 && h.imm == 0#32

/-- The register numbers (10_state R29). -/
def Csr.number : Csr → Byte
  | .magic => 0x00#8
  | .blockLen => 0x01#8
  | .strongLen => 0x02#8
  | .status => 0x03#8
  | .errinfo => 0x04#8
  | .s1 => 0x10#8
  | .s2 => 0x11#8
  | .count => 0x12#8

/-- Which register a number names; the other 248 numbers name none (10_state R29, 30_encoding R92). -/
def csrOf (n : Byte) : Option Csr :=
  if n = 0x00#8 then some .magic
  else if n = 0x01#8 then some .blockLen
  else if n = 0x02#8 then some .strongLen
  else if n = 0x03#8 then some .status
  else if n = 0x04#8 then some .errinfo
  else if n = 0x10#8 then some .s1
  else if n = 0x11#8 then some .s2
  else if n = 0x12#8 then some .count
  else none

/-- RDREG of a register: each of the eight is readable (10_state R29). -/
def rdregOf : Csr → Instr
  | .magic => .rdregMagic
  | .blockLen => .rdregBlockLen
  | .strongLen => .rdregStrongLen
  | .status => .rdregStatus
  | .errinfo => .rdregErrinfo
  | .s1 => .rdregS1
  | .s2 => .rdregS2
  | .count => .rdregCount

/-- WRREG of a register: `BLOCK_LEN` and `STRONG_LEN` alone are writable (10_state R29, 30_encoding R92). -/
def wrregOf (value : Word) : Csr → Option Instr
  | .blockLen => some (.wrregBlockLen value)
  | .strongLen => some (.wrregStrongLen value)
  | .magic => none
  | .status => none
  | .errinfo => none
  | .s1 => none
  | .s2 => none
  | .count => none

/-! ### The decoder -/

/-- Why a header is illegal: the five items of 30_encoding R90, under names (log 20). -/
inductive IllegalHeader where
  /-- item 1: no command has this `OPC` -/
  | unknownOpcode
  /-- item 2: `Z` is not 0 -/
  | reservedField
  /-- item 3: a field the format does not use is not 0 -/
  | unusedField
  /-- item 4: WRREG of a register that does not exist or is read-only -/
  | notWritable
  /-- item 5: RDREG of a register that does not exist -/
  | notReadable
  deriving DecidableEq, Repr

/-- What eight header bytes say. -/
inductive HeaderDecoded where
  /-- selects no row of R84 -/
  | illegal (why : IllegalHeader)
  /-- a whole command, no payload -/
  | command (i : Instr)
  /-- UPDATE: `len` payload bytes follow -/
  | updateHeader (len : Word)
  deriving DecidableEq, Repr

/-- The command a header of a known opcode stands for, once its unused fields are known to be 0 (30_encoding R83, R84). -/
def operandsOf (o : Opcode) (h : Header) : HeaderDecoded :=
  match o with
  | .new => .command .new
  | .update => .updateHeader h.imm
  | .rollIn => .command (.rollIn h.b)
  | .rollOut => .command (.rollOut h.a)
  | .rotate => .command (.rotate h.a h.b)
  | .digest => .command .digest
  | .wrreg =>
    match (csrOf h.a).bind (wrregOf h.imm) with
    | some i => .command i
    | none => .illegal .notWritable
  | .rdreg =>
    match csrOf h.a with
    | some c => .command (rdregOf c)
    | none => .illegal .notReadable
  | .generate => .command .generate

/-- Decoding of a header: total, strict (30_encoding R85, R90). -/
def decodeHeader (h : Header) : HeaderDecoded :=
  match opcodeOf h.opc with
  | none => .illegal .unknownOpcode
  | some o =>
    if h.z = 0#8 then
      if o.format.unusedZero h then operandsOf o h else .illegal .unusedField
    else .illegal .reservedField

/-- What the bytes at the front of the command channel say. -/
inductive Decoded where
  /-- fewer than eight bytes: the header is not whole -/
  | needHeader
  /-- a legal UPDATE header whose payload is not whole -/
  | needPayload
  /-- an illegal header of eight bytes; the bytes after it -/
  | illegal (why : IllegalHeader) (info : Word) (rest : List Byte)
  /-- a whole command; the bytes after it -/
  | command (i : Instr) (rest : List Byte)
  deriving DecidableEq, Repr

/-- Framing and decoding: eight header bytes and, after an UPDATE header only, `LEN` payload bytes
(30_encoding R80). -/
def decode (bytes : List Byte) : Decoded :=
  match bytes with
  | opc :: a :: b :: z :: i3 :: i2 :: i1 :: i0 :: rest =>
    match decodeHeader { opc := opc, a := a, b := b, z := z, imm := wordOfBytes i3 i2 i1 i0 } with
    | .illegal why => .illegal why (wordOfBytes opc a b z) rest
    | .command i => .command i rest
    | .updateHeader len =>
      if rest.length < len.toNat then .needPayload
      else .command (.update (rest.take len.toNat)) (rest.drop len.toNat)
  | _ => .needHeader

/-! ### The encoder -/

/-- The header of a command, from the table of 30_encoding R84. -/
def Instr.header : Instr → Header
  | .new => { opc := Opcode.new.code, a := 0#8, b := 0#8, z := 0#8, imm := 0#32 }
  | .update payload =>
    { opc := Opcode.update.code, a := 0#8, b := 0#8, z := 0#8, imm := BitVec.ofNat 32 payload.length }
  | .rollIn cIn => { opc := Opcode.rollIn.code, a := 0#8, b := cIn, z := 0#8, imm := 0#32 }
  | .rollOut cOut => { opc := Opcode.rollOut.code, a := cOut, b := 0#8, z := 0#8, imm := 0#32 }
  | .rotate cOut cIn => { opc := Opcode.rotate.code, a := cOut, b := cIn, z := 0#8, imm := 0#32 }
  | .digest => { opc := Opcode.digest.code, a := 0#8, b := 0#8, z := 0#8, imm := 0#32 }
  | .wrregBlockLen value =>
    { opc := Opcode.wrreg.code, a := Csr.blockLen.number, b := 0#8, z := 0#8, imm := value }
  | .wrregStrongLen value =>
    { opc := Opcode.wrreg.code, a := Csr.strongLen.number, b := 0#8, z := 0#8, imm := value }
  | .rdregMagic => { opc := Opcode.rdreg.code, a := Csr.magic.number, b := 0#8, z := 0#8, imm := 0#32 }
  | .rdregBlockLen => { opc := Opcode.rdreg.code, a := Csr.blockLen.number, b := 0#8, z := 0#8, imm := 0#32 }
  | .rdregStrongLen => { opc := Opcode.rdreg.code, a := Csr.strongLen.number, b := 0#8, z := 0#8, imm := 0#32 }
  | .rdregStatus => { opc := Opcode.rdreg.code, a := Csr.status.number, b := 0#8, z := 0#8, imm := 0#32 }
  | .rdregErrinfo => { opc := Opcode.rdreg.code, a := Csr.errinfo.number, b := 0#8, z := 0#8, imm := 0#32 }
  | .rdregS1 => { opc := Opcode.rdreg.code, a := Csr.s1.number, b := 0#8, z := 0#8, imm := 0#32 }
  | .rdregS2 => { opc := Opcode.rdreg.code, a := Csr.s2.number, b := 0#8, z := 0#8, imm := 0#32 }
  | .rdregCount => { opc := Opcode.rdreg.code, a := Csr.count.number, b := 0#8, z := 0#8, imm := 0#32 }
  | .generate => { opc := Opcode.generate.code, a := 0#8, b := 0#8, z := 0#8, imm := 0#32 }

/-- The bytes of a command on CMD, in order (30_encoding R80). -/
def encode (i : Instr) : List Byte := i.header.bytes ++ i.payload

/-! ### The opcode table, as R84 prints it -/

/-- One row of the table of 30_encoding R84: a header `h` selects the row when `h & mask = pattern`. -/
structure TableRow where
  mnemonic : String
  pattern : BitVec 64
  mask : BitVec 64
  deriving DecidableEq, Repr

/-- A header selects a row (30_encoding R84). -/
def TableRow.selects (row : TableRow) (v : BitVec 64) : Bool := v &&& row.mask == row.pattern

/-- The window commands' rows of 30_encoding R84. -/
def opcodeTableWindow : List TableRow :=
  [{ mnemonic := "NEW", pattern := 0x0100000000000000#64, mask := 0xFFFFFFFFFFFFFFFF#64 },
   { mnemonic := "UPDATE", pattern := 0x0200000000000000#64, mask := 0xFFFFFFFF00000000#64 },
   { mnemonic := "ROLL_IN", pattern := 0x0300000000000000#64, mask := 0xFFFF00FFFFFFFFFF#64 },
   { mnemonic := "ROLL_OUT", pattern := 0x0400000000000000#64, mask := 0xFF00FFFFFFFFFFFF#64 },
   { mnemonic := "ROTATE", pattern := 0x0500000000000000#64, mask := 0xFF0000FFFFFFFFFF#64 },
   { mnemonic := "DIGEST", pattern := 0x0600000000000000#64, mask := 0xFFFFFFFFFFFFFFFF#64 }]

/-- The register commands' rows of 30_encoding R84. -/
def opcodeTableRegister : List TableRow :=
  [{ mnemonic := "WRREG_BLOCK_LEN", pattern := 0x1001000000000000#64, mask := 0xFFFFFFFF00000000#64 },
   { mnemonic := "WRREG_STRONG_LEN", pattern := 0x1002000000000000#64, mask := 0xFFFFFFFF00000000#64 },
   { mnemonic := "RDREG_MAGIC", pattern := 0x1100000000000000#64, mask := 0xFFFFFFFFFFFFFFFF#64 },
   { mnemonic := "RDREG_BLOCK_LEN", pattern := 0x1101000000000000#64, mask := 0xFFFFFFFFFFFFFFFF#64 },
   { mnemonic := "RDREG_STRONG_LEN", pattern := 0x1102000000000000#64, mask := 0xFFFFFFFFFFFFFFFF#64 },
   { mnemonic := "RDREG_STATUS", pattern := 0x1103000000000000#64, mask := 0xFFFFFFFFFFFFFFFF#64 },
   { mnemonic := "RDREG_ERRINFO", pattern := 0x1104000000000000#64, mask := 0xFFFFFFFFFFFFFFFF#64 },
   { mnemonic := "RDREG_S1", pattern := 0x1110000000000000#64, mask := 0xFFFFFFFFFFFFFFFF#64 },
   { mnemonic := "RDREG_S2", pattern := 0x1111000000000000#64, mask := 0xFFFFFFFFFFFFFFFF#64 },
   { mnemonic := "RDREG_COUNT", pattern := 0x1112000000000000#64, mask := 0xFFFFFFFFFFFFFFFF#64 }]

/-- The seventeen rows of 30_encoding R84. -/
def opcodeTable : List TableRow :=
  opcodeTableWindow ++ opcodeTableRegister ++
  [{ mnemonic := "GENERATE", pattern := 0x2000000000000000#64, mask := 0xFFFFFFFFFFFFFFFF#64 }]

/-- The row's name in spec/opcode_table.json. -/
def Instr.mnemonic : Instr → String
  | .new => "NEW"
  | .update _ => "UPDATE"
  | .rollIn _ => "ROLL_IN"
  | .rollOut _ => "ROLL_OUT"
  | .rotate _ _ => "ROTATE"
  | .digest => "DIGEST"
  | .wrregBlockLen _ => "WRREG_BLOCK_LEN"
  | .wrregStrongLen _ => "WRREG_STRONG_LEN"
  | .rdregMagic => "RDREG_MAGIC"
  | .rdregBlockLen => "RDREG_BLOCK_LEN"
  | .rdregStrongLen => "RDREG_STRONG_LEN"
  | .rdregStatus => "RDREG_STATUS"
  | .rdregErrinfo => "RDREG_ERRINFO"
  | .rdregS1 => "RDREG_S1"
  | .rdregS2 => "RDREG_S2"
  | .rdregCount => "RDREG_COUNT"
  | .generate => "GENERATE"

/-- The mnemonic a header decodes to, if it is legal. -/
def HeaderDecoded.mnemonic? : HeaderDecoded → Option String
  | .illegal _ => none
  | .command i => some i.mnemonic
  | .updateHeader _ => some "UPDATE"

/-! ### Pseudo-commands and the text form -/

/-- The expansions of 30_encoding R95. -/
def Pseudo.expand : Pseudo → List Instr
  | .fresh bytes => [.new, .update bytes, .digest]
  | .setopt blockLen strongLen => [.wrregBlockLen blockLen, .wrregStrongLen strongLen]

/-- A hexadecimal digit. -/
def hexDigit (d : BitVec 4) : String :=
  ["0", "1", "2", "3", "4", "5", "6", "7", "8", "9", "A", "B", "C", "D", "E", "F"].getD d.toNat "0"

/-- A byte as two hexadecimal digits. -/
def hexByte (b : Byte) : String := hexDigit (b.extractLsb' 4 4) ++ hexDigit (b.extractLsb' 0 4)

/-- A byte string as hexadecimal digits, the first byte first. -/
def hexBytes : List Byte → String
  | [] => ""
  | b :: bs => hexByte b ++ hexBytes bs

/-- A byte string in the `hex:` form of 30_encoding R94. -/
def hexString (bytes : List Byte) : String := "hex:" ++ hexBytes bytes

/-- A byte in the `0x` form of 30_encoding R94. -/
def hexNumber (b : Byte) : String := "0x" ++ hexByte b

/-- A 32-bit value in the `0x` form of 30_encoding R94. -/
def hexWord (v : Word) : String := "0x" ++ hexBytes (be32 v)

/-- The command in the text form of 30_encoding R94. -/
def Instr.text : Instr → String
  | .new => "NEW"
  | .update payload => "UPDATE " ++ hexString payload
  | .rollIn cIn => "ROLL_IN " ++ hexNumber cIn
  | .rollOut cOut => "ROLL_OUT " ++ hexNumber cOut
  | .rotate cOut cIn => "ROTATE " ++ hexNumber cOut ++ ", " ++ hexNumber cIn
  | .digest => "DIGEST"
  | .wrregBlockLen value => "WRREG BLOCK_LEN, " ++ hexWord value
  | .wrregStrongLen value => "WRREG STRONG_LEN, " ++ hexWord value
  | .rdregMagic => "RDREG MAGIC"
  | .rdregBlockLen => "RDREG BLOCK_LEN"
  | .rdregStrongLen => "RDREG STRONG_LEN"
  | .rdregStatus => "RDREG STATUS"
  | .rdregErrinfo => "RDREG ERRINFO"
  | .rdregS1 => "RDREG S1"
  | .rdregS2 => "RDREG S2"
  | .rdregCount => "RDREG COUNT"
  | .generate => "GENERATE"

/-! ### The table's numbering of an instruction's bits -/

/-- `count` bytes read from a number, the least significant first. -/
def bytesFrom : Nat → Nat → List Byte
  | 0, _ => []
  | count + 1, w => BitVec.ofNat 8 w :: bytesFrom count (w / 256)

/-- The bytes on CMD of the instruction whose bits are `w` (log 19): the table's first word is the 64-bit header,
bit 63 the first bit sent; after a legal UPDATE header, `LEN` payload bytes are numbered from bit 64 on.
Bits at and above `nbits` are 0. -/
def tableBytes (nbits w : Nat) : List Byte :=
  let v := w % 2 ^ nbits
  let h := headerOfBits (BitVec.ofNat 64 v)
  h.bytes ++
    match decodeHeader h with
    | .illegal _ => []
    | .command _ => []
    | .updateHeader len => bytesFrom len.toNat (v / 2 ^ 64)

/-- The instruction the decoder reads from an instruction whose bits are `w`, numbered as spec/opcode_table.json
numbers them; none where the decoder refuses. -/
def decodeTableWord (nbits w : Nat) : Option Instr :=
  match decode (tableBytes nbits w) with
  | .command i _ => some i
  | .needHeader => none
  | .needPayload => none
  | .illegal _ _ _ => none

end Sys2Proof
end

