-- ==== Sys2Proof/Machine/State.lean ====
section
/-! DEFINITION. The state of the block, what its environment gives a step as arguments, and the environment itself, as
plain data (10_state R20 to R42, 00_scope R9); the reasons a step can stop; the state after reset (10_state R42). -/

namespace Sys2Proof.Machine

/-- A window state: three 16-bit registers (10_state R20, R36). -/
structure Window where
  s1 : Half
  s2 : Half
  count : Half
  deriving DecidableEq, Repr

/-- The five causes ever produced; the codes 5 to 15 are reserved and left out by the type
(60_exceptions R191, 93_implementation_defined U11). -/
inductive Cause where
  | none
  | illegalCommand
  | configError
  | srcReadError
  | snkWriteError
  deriving DecidableEq, Repr

/-- The fields of the STATUS register (10_state R33); its reserved bits read as 0 and have no storage. -/
structure Status where
  fault : Bool
  done : Bool
  cause : Cause
  deriving DecidableEq, Repr

/-- Where a GENERATE run stands (10_state R27). -/
inductive Phase where
  | idle
  | hdr0
  | hdr1
  | hdr2
  | fill
  | weak
  | strong
  | fault
  deriving DecidableEq, Repr

/-- BUF: pairs of index and byte, indices strictly rising, no pair whose byte is what an unlisted index reads as
(Memory.wf in Machine/Ops.lean; 20_memory R58, log 8). -/
abbrev Memory := List Host.Cell

/-- One answer of the source to a read (20_memory R52). -/
inductive SrcAnswer where
  /-- `Data(bytes)`: what the source is willing to deliver; a read takes at most what it asked for (log 2) -/
  | data (bytes : List Byte)
  /-- `Err(e)` -/
  | err (e : Word)
  deriving DecidableEq, Repr

/-- One answer of the sink to a write (20_memory R55). -/
inductive SnkAnswer where
  /-- `Ok`: the bytes are appended -/
  | ok
  /-- `Err(e)` -/
  | err (e : Word)
  deriving DecidableEq, Repr

/-- One transaction of the block on a port, with its answer (20_memory R65). -/
inductive Transaction where
  /-- `SrcRead(max)` and what it was answered -/
  | srcRead (max : Word) (answer : SrcAnswer)
  /-- `SnkWrite(bytes)` and what it was answered -/
  | snkWrite (bytes : List Byte) (answer : SnkAnswer)
  /-- `H(block)` -/
  | hash (block : List Byte)
  deriving DecidableEq, Repr

/-- Why the machine stops. No command and no reachable state raises one: the spec's own four exceptions enter the
fault state, which is a next state (60_exceptions R196). -/
inductive Fault where
  /-- Raised by the WEAK and STRONG actions when `fill > BLOCK_LEN`: BUF has no byte at an index at or above
  `BLOCK_LEN` (10_state R37). Safe: the machine stops where the spec gives no byte (log 9). -/
  | bufIndex
  deriving DecidableEq, Repr

/-- Why an instruction has no meaning. -/
inductive Refusal where
  /-- An arm of exec that has no meaning yet; none is left. Safe: nothing is claimed of it. -/
  | notModelled (mnemonic : String)
  deriving DecidableEq, Repr

/-- Everything the spec gives the block, hidden state included (10_state R38), and the contents of its two channels to
the host. No answer of the environment is here: a step takes those as arguments (00_scope R9). -/
structure Block where
  /-- R, the host-visible window state (10_state R20) -/
  r : Window
  /-- BLOCK_LEN (10_state R31) -/
  blockLen : Word
  /-- STRONG_LEN (10_state R32) -/
  strongLen : Word
  /-- STATUS (10_state R33) -/
  status : Status
  /-- ERRINFO (10_state R34) -/
  errinfo : Word
  /-- phase (10_state R27) -/
  phase : Phase
  /-- W, the SSP's private window state (10_state R36) -/
  w : Window
  /-- BUF, stale bytes included (10_state R37) -/
  buf : Memory
  /-- fill (10_state R37) -/
  fill : Word
  /-- the bytes of a command already taken from CMD while the rest has not arrived (10_state R38) -/
  taken : List Byte
  /-- CMD: bytes in the channel, oldest first (20_memory R50) -/
  cmd : List Byte
  /-- RSP: words not yet taken by the host, oldest first (20_memory R51) -/
  rsp : List Word
  deriving DecidableEq, Repr

/-- What the environment gives one step of the block, as an argument of the step (00_scope R9): on each port the answer
to a request made now, or none while it keeps the block waiting (92_eei_decisions D29). -/
structure Answers where
  /-- SRC's answer to a read -/
  src : Option SrcAnswer
  /-- SNK's answer to a write -/
  snk : Option SnkAnswer
  /-- whether HASH answers; what it answers is `H` of the request -/
  hash : Bool
  deriving DecidableEq, Repr

/-- The environment beside the block: the outside that the host's closed machine must hold, since its step has no
argument but the state (log 1). The block's step never sees it. -/
structure Environment where
  /-- the answers the source will give, next first (20_memory R52) -/
  src : List SrcAnswer
  /-- the answers the sink will give, next first (20_memory R55) -/
  snk : List SnkAnswer
  /-- how many more requests HASH will answer (20_memory R57) -/
  hashReady : Nat
  /-- the bytes the sink holds (10_state R41, 20_memory R55) -/
  sink : List Byte
  /-- the model's own: the port transactions made, oldest first (log 15) -/
  trace : List Transaction
  /-- the model's own: how many times the sink's contents were lost to an I/O error (log 12) -/
  sinkDraws : Nat
  deriving DecidableEq, Repr

/-- The closed machine: the block and, beside it, its environment (10_state R41, log 1). -/
structure State extends Block, Environment where
  deriving DecidableEq, Repr

/-- The zero state of a window (10_state R22). -/
abbrev Window.zero : Window := { s1 := 0#16, s2 := 0#16, count := 0#16 }

/-- The state after reset (10_state R42). The values of `w`, `buf` and the environment's fields are the model's
choice (logs 7, 8, 12, 15, 16); the rest are the spec's. -/
def State.reset : State where
  r := Window.zero
  blockLen := Config.blockLenDefault
  strongLen := Config.strongLenDefault
  status := { fault := false, done := false, cause := .none }
  errinfo := 0#32
  phase := .idle
  w := Window.zero
  buf := []
  fill := 0#32
  taken := []
  cmd := []
  rsp := []
  src := []
  snk := []
  hashReady := 0
  sink := []
  trace := []
  sinkDraws := 0

end Sys2Proof.Machine
end

