-- ==== Sys2Proof/Machine/Operands.lean ====
section
/-! DEFINITION. How operands are made (30_encoding R83): bytes are zero-extended, never sign-extended; a window's
registers are read zero-extended to 32 bits; the triangular number is exact. -/

namespace Sys2Proof.Machine

/-- `zext_16(c)` (30_encoding R83). -/
def zext16 (c : Byte) : Half := c.setWidth 16

/-- `zext_32(v)`: bits 15:0 hold the register, bits 31:16 read as 0 (10_state R35). -/
def zext32 (v : Half) : Word := v.setWidth 32

/-- The amount one byte adds to `s1`: `zext_16(c) + 31`, from 31 to 286 (40_rwc_commands R111, R116, R118). -/
def weighted (c : Byte) : Half := zext16 c + BitVec.ofNat 16 Config.offset

/-- `T(n) = n*(n+1)/2`, an exact integer: halved before any reduction (00_scope R11, 40_rwc_commands R111, 90 C4). -/
def triangular (n : Nat) : Nat := n * (n + 1) / 2

end Sys2Proof.Machine
end

