-- ==== Sys2Proof/Machine/Flags.lean ====
section
/-! DEFINITION. The flag-like state of the block (10_state R28: there are no arithmetic flags): the cause codes,
the STATUS word, the configuration mask, the sideband outputs. -/

namespace Sys2Proof.Machine

/-- The 4-bit cause codes (60_exceptions R191). -/
def Cause.code : Cause → BitVec 4
  | .none => 0#4
  | .illegalCommand => 1#4
  | .configError => 2#4
  | .srcReadError => 3#4
  | .snkWriteError => 4#4

/-- Which causes only GENERATE raises (60_exceptions R191, "raised by"). -/
def Cause.ofGenerate : Cause → Bool
  | .none => false
  | .illegalCommand => false
  | .configError => true
  | .srcReadError => true
  | .snkWriteError => true

/-- The STATUS register: FAULT bit 0, DONE bit 1, CAUSE bits 11:8, every other bit 0 (10_state R33). -/
def Status.word (st : Status) : Word :=
  0#20 ++ st.cause.code ++ 0#6 ++ BitVec.ofBool st.done ++ BitVec.ofBool st.fault

/-- The mask of the failed configuration checks (42_generate_pipeline R151): bit 0 `BLOCK_LEN = 0`,
bit 1 `STRONG_LEN > 32`, bit 2 `BLOCK_LEN > BUF_CAP`, bits 31:3 zero. -/
def configMask (blockLen strongLen : Word) : Word :=
  0#29 ++ BitVec.ofBool (decide (Config.bufCap < blockLen.toNat)) ++
    BitVec.ofBool (decide (Config.hashLen < strongLen.toNat)) ++ BitVec.ofBool (blockLen == 0#32)

/-- Sideband output `fault` (10_state R40). -/
def Block.faultOut (b : Block) : Bool := b.status.fault

/-- Sideband output `cause` (10_state R40). -/
def Block.causeOut (b : Block) : BitVec 4 := b.status.cause.code

/-- Sideband output `errinfo` (10_state R40). -/
def Block.errinfoOut (b : Block) : Word := b.errinfo

end Sys2Proof.Machine
end

