-- ==== Sys2Proof/Machine/Ops.lean ====
section
/-! DEFINITION. The named operations: updates of one piece of the block each, the memory BUF, the window arithmetic that R
and W share, register reads, fault entry and the way out of it, the start and the end of a run, taking a command. -/

namespace Sys2Proof.Machine

/-! ### Updates of the block -/

/-- `R <- v`. -/
def Block.setR (b : Block) (v : Window) : Block := { b with r := v }

/-- `CSR[0x01] <- v` (10_state R31). -/
def Block.setBlockLen (b : Block) (v : Word) : Block := { b with blockLen := v }

/-- `CSR[0x02] <- v` (10_state R32). -/
def Block.setStrongLen (b : Block) (v : Word) : Block := { b with strongLen := v }

/-- Write of STATUS by the block itself (10_state R33). -/
def Block.setStatus (b : Block) (v : Status) : Block := { b with status := v }

/-- `ERRINFO <- v` (10_state R34). -/
def Block.setErrinfo (b : Block) (v : Word) : Block := { b with errinfo := v }

/-- `phase <- p` (10_state R27). -/
def Block.setPhase (b : Block) (p : Phase) : Block := { b with phase := p }

/-- `W <- v` (10_state R36). -/
def Block.setW (b : Block) (v : Window) : Block := { b with w := v }

/-- Write of BUF (20_memory R58). -/
def Block.setBuf (b : Block) (m : Memory) : Block := { b with buf := m }

/-- `fill <- v` (10_state R37). -/
def Block.setFill (b : Block) (v : Word) : Block := { b with fill := v }

/-- What has been taken from CMD for a command not yet whole, and what is left in CMD (20_memory R50, 10_state R38). -/
def Block.setCmd (b : Block) (taken cmd : List Byte) : Block := { b with taken := taken, cmd := cmd }

/-- `RspPush(v)`: appends one word; the channel never refuses one (20_memory R51). -/
def Block.rspPush (b : Block) (v : Word) : Block := { b with rsp := b.rsp ++ [v] }

/-- The closed machine with another block in the same environment: all a command does (40_rwc_commands R110,
41_config_commands R140). -/
def State.withBlock (s : State) (b : Block) : State := { s with toBlock := b }

/-! ### BUF (20_memory R58) -/

/-- The byte at an index; an index not listed reads as 0 (log 8). -/
def Memory.read : Memory → Nat → Byte
  | [], _ => 0#8
  | (i, b) :: m, a => if a = i then b else Memory.read m a

/-- Write of one byte, keeping the canonical form. -/
def Memory.write : Memory → Nat → Byte → Memory
  | [], a, b => if b = 0#8 then [] else [(a, b)]
  | (i, c) :: m, a, b =>
    if a < i then (if b = 0#8 then (i, c) :: m else (a, b) :: (i, c) :: m)
    else if a = i then (if b = 0#8 then m else (a, b) :: m)
    else (i, c) :: Memory.write m a b

/-- `BUF[a .. a+k) <- bytes`, index `a` first. -/
def Memory.writeBytes : Memory → Nat → List Byte → Memory
  | m, _, [] => m
  | m, a, b :: bs => Memory.writeBytes (Memory.write m a b) (a + 1) bs

/-- `BUF[a .. a+n)`. -/
def Memory.readBytes (m : Memory) : Nat → Nat → List Byte
  | _, 0 => []
  | a, n + 1 => Memory.read m a :: Memory.readBytes m (a + 1) n

/-- The canonical form: indices strictly rising, no byte equal to what an unlisted index reads as. -/
def Memory.wf : Memory → Bool
  | [] => true
  | (i, b) :: m => b != 0#8 && m.all (fun c => decide (i < c.1)) && Memory.wf m

/-- Every listed index is below a bound (10_state R37: `BUF[0 .. BLOCK_LEN-1]`). -/
def Memory.below (m : Memory) (bound : Nat) : Bool := m.all (fun c => decide (c.1 < bound))

/-- The block being assembled, `BUF[0 .. fill)` (10_state R37). -/
def Block.gathered (b : Block) : List Byte := b.buf.readBytes 0 b.fill.toNat

/-- The FILL action's store: `BUF[fill .. fill+k) <- bytes`, `fill <- fill + k` (42_generate_pipeline R154). -/
def Block.storeBytes (b : Block) (bytes : List Byte) : Block :=
  (b.setBuf (b.buf.writeBytes b.fill.toNat bytes)).setFill (b.fill + BitVec.ofNat 32 bytes.length)

/-! ### Window arithmetic, for R and for W alike (40_rwc_commands R111, 10_state R36) -/

/-- One byte of the pass of UPDATE: `a1 = a1 + b_i`, then `a2 = a2 + a1` (40_rwc_commands R114). -/
def passByte (a : Half × Half) (b : Byte) : Half × Half :=
  (a.1 + zext16 b, a.2 + (a.1 + zext16 b))

/-- UPDATE: the pass from the window's own sums, then the offset corrections (40_rwc_commands R114, 90 C1, C4). -/
def Window.update (v : Window) (bytes : List Byte) : Window :=
  let a := bytes.foldl passByte (v.s1, v.s2)
  { s1 := a.1 + BitVec.ofNat 16 (bytes.length * Config.offset)
    s2 := a.2 + BitVec.ofNat 16 (triangular bytes.length * Config.offset)
    count := v.count + BitVec.ofNat 16 bytes.length }

/-- ROLL_IN: `s2` takes the new `s1` (40_rwc_commands R116). -/
def Window.rollIn (v : Window) (cIn : Byte) : Window :=
  let t1 := v.s1 + weighted cIn
  { s1 := t1, s2 := v.s2 + t1, count := v.count + 1#16 }

/-- ROLL_OUT: the multiplier is the `count` before the command (40_rwc_commands R118). -/
def Window.rollOut (v : Window) (cOut : Byte) : Window :=
  let d := weighted cOut
  { s1 := v.s1 - d, s2 := v.s2 - v.count * d, count := v.count - 1#16 }

/-- ROTATE: `s2` takes the new `s1`; `count` is not written (40_rwc_commands R120). -/
def Window.rotate (v : Window) (cOut cIn : Byte) : Window :=
  let t1 := v.s1 + zext16 cIn - zext16 cOut
  { s1 := t1, s2 := v.s2 + t1 - v.count * weighted cOut, count := v.count }

/-- `{s2, s1}` (10_state R24). -/
def Window.digest (v : Window) : Word := v.s2 ++ v.s1

/-! ### Register reads -/

/-- `CSR[n]`: the one place a control register is read; MAGIC is hardwired, S1, S2, COUNT are views of R
(10_state R29 to R35, 41_config_commands R143). -/
def Block.csr (b : Block) : Csr → Word
  | .magic => Config.magicValue
  | .blockLen => b.blockLen
  | .strongLen => b.strongLen
  | .status => b.status.word
  | .errinfo => b.errinfo
  | .s1 => zext32 b.r.s1
  | .s2 => zext32 b.r.s2
  | .count => zext32 b.r.count

/-! ### Exceptions -/

/-- `raise Fault(cause, info)`: fault entry (60_exceptions R196). A faulting GENERATE pushes its one response word, the
faulted STATUS; an illegal command pushes nothing. -/
def Block.raise (b : Block) (cause : Cause) (info : Word) : Block :=
  let c := ((b.setStatus { fault := true, done := false, cause := cause }).setErrinfo info).setPhase .fault
  if cause.ofGenerate then c.rspPush c.status.word else c

/-- `rst`, the only way out of the fault state (60_exceptions R199, 70_reset_and_hazards R220): every piece of the
block's state takes its reset value, CMD and RSP are emptied, the environment is left as it is (R221, 92_eei_decisions D31). -/
def State.rst (s : State) : State := s.withBlock State.reset.toBlock

/-! ### A run's start and end -/

/-- A legal GENERATE: `STATUS.DONE <- 0`, `phase <- HDR0` (42_generate_pipeline R151). -/
def Block.startRun (b : Block) : Block :=
  (b.setStatus { b.status with done := false }).setPhase .hdr0

/-- `fill <- 0`, `phase <- FILL`: the next block (42_generate_pipeline R152, R158). -/
def Block.startBlock (b : Block) : Block := (b.setFill 0#32).setPhase .fill

/-- The end action: `STATUS.DONE <- 1`, `phase <- IDLE`, `RspPush(STATUS)` (42_generate_pipeline R159). -/
def Block.endRun (b : Block) : Block :=
  let c := (b.setStatus { b.status with done := true }).setPhase .idle
  c.rspPush c.status.word

/-! ### Taking a command from CMD (20_memory R50) -/

/-- What the front of CMD gives an idle block. -/
inductive Fetched where
  /-- the command is not whole: the block holds; a whole UPDATE header has left CMD (10_state R38, log 6) -/
  | hold (b : Block)
  /-- an illegal header, its eight bytes taken (30_encoding R91) -/
  | illegal (info : Word) (b : Block)
  /-- a whole command, its bytes taken -/
  | command (i : Instr) (b : Block)

/-- `CmdPop(8)`, decoding, and `CmdPop(LEN)` after an UPDATE header (30_encoding R80, 20_memory R50). -/
def fetch (b : Block) : Fetched :=
  match decode (b.taken ++ b.cmd) with
  | .needHeader => .hold b
  | .needPayload =>
    .hold (b.setCmd ((b.taken ++ b.cmd).take Config.cmdHdrBytes) ((b.taken ++ b.cmd).drop Config.cmdHdrBytes))
  | .illegal _ info rest => .illegal info (b.setCmd [] rest)
  | .command i rest => .command i (b.setCmd [] rest)

/-- RSP moved over a byte-wide link: each word most significant byte first (20_memory R51). -/
def Block.rspBytes (b : Block) : List Byte := b.rsp.flatMap be32

end Sys2Proof.Machine
end

