-- ==== Sys2Proof/Machine/Ports.lean ====
section
/-! DEFINITION. The ports SRC, SNK and HASH, seen from both sides (20_memory R52 to R57): an action of the block takes the
answers of this step as an argument (00_scope R9), and says which transactions it made; the environment is then moved on by
those transactions. A port with no answer keeps the block waiting (92_eei_decisions D29). -/

namespace Sys2Proof.Machine

/-! ### The block's side -/

/-- What one step makes of the block: its new state, and the transactions made, in issue order (20_memory R68). -/
structure Moved where
  block : Block
  made : List Transaction
  deriving DecidableEq, Repr

/-- The block waits: nothing changes and no transaction is made (60_exceptions R202, log 3). -/
def Block.holds (b : Block) : Moved := { block := b, made := [] }

/-- `SrcRead(max)`, then `k` on its bytes, at most `max` of them (log 2), or `raise Fault(SRC_READ_ERROR, e)`
(20_memory R52, 60_exceptions R194). -/
def readThen (a : Answers) (b : Block) (max : Word) (k : List Byte → Block) : Moved :=
  match a.src with
  | none => b.holds
  | some (.err e) => { block := b.raise .srcReadError e, made := [.srcRead max (.err e)] }
  | some (.data bytes) =>
    { block := k (bytes.take max.toNat), made := [.srcRead max (.data (bytes.take max.toNat))] }

/-- `SnkWrite(bytes)` after the transactions `before` of the same action, then `k`, or `raise Fault(SNK_WRITE_ERROR, e)`;
while the sink has no answer the action has not happened (20_memory R55, R68; 60_exceptions R195). -/
def writeAfter (a : Answers) (b : Block) (before : List Transaction) (bytes : List Byte) (k : Block → Block) : Moved :=
  match a.snk with
  | none => b.holds
  | some .ok => { block := k b, made := before ++ [.snkWrite bytes .ok] }
  | some (.err e) => { block := b.raise .snkWriteError e, made := before ++ [.snkWrite bytes (.err e)] }

/-- One action that is one write (42_generate_pipeline R152, R156). -/
def writeThen (a : Answers) (b : Block) (bytes : List Byte) (k : Block → Block) : Moved := writeAfter a b [] bytes k

/-- The first `STRONG_LEN` bytes of a hash, in the order `H` returned them (42_generate_pipeline R157). -/
def hashPrefix (strongLen : Word) (h : Vector Byte 32) : List Byte := h.toList.take strongLen.toNat

/-- The strong digest of a block: the prefix of `H(block)` (20_memory R61). -/
def strongDigest (strongLen : Word) (block : List Byte) : List Byte := hashPrefix strongLen (Config.strongHash block)

/-! ### The environment's side -/

/-- What the environment answers to a request made now. -/
def Environment.answers (e : Environment) : Answers :=
  { src := e.src.head?, snk := e.snk.head?, hash := e.hashReady != 0 }

/-- The answers left after a read of at most `max` bytes: what the source offered beyond them is kept for the next read
(log 2). -/
def srcLeft (max : Nat) : List SrcAnswer → List SrcAnswer
  | [] => []
  | .err _ :: q => q
  | .data bytes :: q => if bytes.length ≤ max then q else .data (bytes.drop max) :: q

/-- "After any `Err` from SNK or SRC the contents of the sink are unspecified" (20_memory R56): a free value, a fresh
one for each error (log 12). -/
def Environment.loseSink (e : Environment) : Environment :=
  { e with sink := Config.sinkAfterError e.sinkDraws, sinkDraws := e.sinkDraws + 1 }

/-- One more transaction on the record (log 15). -/
def Environment.log (e : Environment) (x : Transaction) : Environment := { e with trace := e.trace ++ [x] }

/-- What one transaction does to the environment: the answer given is spent, and an `Ok` write appends its bytes
(20_memory R52, R55, R56, R57, R66). -/
def Environment.serve (e : Environment) (x : Transaction) : Environment :=
  match x with
  | .srcRead max (.data _) => { e with src := srcLeft max.toNat e.src }.log x
  | .srcRead _ (.err _) => ({ e with src := e.src.tail }.log x).loseSink
  | .snkWrite bytes .ok => { e with snk := e.snk.tail, sink := e.sink ++ bytes }.log x
  | .snkWrite _ (.err _) => ({ e with snk := e.snk.tail }.log x).loseSink
  | .hash _ => { e with hashReady := e.hashReady - 1 }.log x

/-- The closed machine after a step of its block: the block moved, the environment served each transaction in order. -/
def State.settle (s : State) (m : Moved) : State :=
  { toBlock := m.block, toEnvironment := m.made.foldl Environment.serve s.toEnvironment }

end Sys2Proof.Machine
end

