-- ==== Sys2Proof/Machine/Generate.lean ====
section
/-! DEFINITION. The meaning of GENERATE, its start action (42_generate_pipeline R151), and the actions of the signature
serializer pipeline that carry the run out, one per step, each with the answers of that step as its
argument (R152 to R159, 00_scope R9, log 5). -/

namespace Sys2Proof.Machine

/-- GENERATE's start action on the block: the configuration check, before any I/O (42_generate_pipeline R151). -/
def Block.checkAndStart (b : Block) : Block :=
  if configMask b.blockLen b.strongLen = 0#32 then b.startRun
  else b.raise .configError (configMask b.blockLen b.strongLen)

/-- GENERATE (42_generate_pipeline R150, R151). -/
def execGenerate (s : State) : Host.Outcome State Fault Refusal := .next (s.withBlock s.checkAndStart)

/-- HDR0 (42_generate_pipeline R152). -/
def actHdr0 (a : Answers) (b : Block) : Host.Outcome Moved Fault Refusal :=
  .next (writeThen a b (be32 (b.csr .magic)) (fun c => c.setPhase .hdr1))

/-- HDR1 (42_generate_pipeline R152). -/
def actHdr1 (a : Answers) (b : Block) : Host.Outcome Moved Fault Refusal :=
  .next (writeThen a b (be32 b.blockLen) (fun c => c.setPhase .hdr2))

/-- HDR2 (42_generate_pipeline R152). -/
def actHdr2 (a : Answers) (b : Block) : Host.Outcome Moved Fault Refusal :=
  .next (writeThen a b (be32 b.strongLen) Block.startBlock)

/-- What the FILL action does with the bytes of an answer: none means end of stream (42_generate_pipeline R154). -/
def fillWith (b : Block) (bytes : List Byte) : Block :=
  if bytes = [] then (if b.fill = 0#32 then b.endRun else b.setPhase .weak) else b.storeBytes bytes

/-- FILL: one read for exactly the free space of BUF, or the decision that the block is full
(42_generate_pipeline R154, R155; log 21). -/
def actFill (a : Answers) (b : Block) : Host.Outcome Moved Fault Refusal :=
  .next
    (if b.fill.toNat < b.blockLen.toNat then readThen a b (b.blockLen - b.fill) (fillWith b)
     else { block := b.setPhase .weak, made := [] })

/-- The weak digest of a block, from the zero state (42_generate_pipeline R156). -/
def blockWindow (block : List Byte) : Window := Window.zero.update block

/-- WEAK (42_generate_pipeline R156; log 9, log 14). -/
def actWeak (a : Answers) (b : Block) : Host.Outcome Moved Fault Refusal :=
  if b.blockLen.toNat < b.fill.toNat then .fault .bufIndex
  else
    .next (writeThen a b (be32 (blockWindow b.gathered).digest)
      (fun c => (c.setW (blockWindow b.gathered)).setPhase .strong))

/-- After a record: a short block is the last (42_generate_pipeline R158). -/
def afterRecord (b : Block) : Block :=
  if b.fill.toNat < b.blockLen.toNat then b.endRun else b.startBlock

/-- What the STRONG action does once HASH answers: the write of the hash's first `STRONG_LEN` bytes, which is not issued
when `STRONG_LEN = 0` (42_generate_pipeline R157). -/
def strongWith (a : Answers) (b : Block) (h : Vector Byte 32) : Moved :=
  if b.strongLen = 0#32 then { block := afterRecord b, made := [.hash b.gathered] }
  else writeAfter a b [.hash b.gathered] (hashPrefix b.strongLen h) afterRecord

/-- STRONG: the hash, then its write; while either has no answer the action has not happened
(42_generate_pipeline R157, R158; 60_exceptions R202; log 9, log 15). -/
def actStrong (a : Answers) (b : Block) : Host.Outcome Moved Fault Refusal :=
  if b.blockLen.toNat < b.fill.toNat then .fault .bufIndex
  else .next (if a.hash then strongWith a b (Config.strongHash b.gathered) else b.holds)

end Sys2Proof.Machine
end

