-- ==== Sys2Proof/Machine/RegisterCommands.lean ====
section
/-! DEFINITION. The meanings of WRREG and RDREG, one for each register (41_config_commands R140 to R143): no stream, no
window arithmetic, no exception. -/

namespace Sys2Proof.Machine

/-- WRREG BLOCK_LEN: all 32 bits, as given (41_config_commands R141). -/
def execWrregBlockLen (value : Word) (s : State) : Host.Outcome State Fault Refusal := .next (s.withBlock (s.setBlockLen value))

/-- WRREG STRONG_LEN: all 32 bits, as given (41_config_commands R141). -/
def execWrregStrongLen (value : Word) (s : State) : Host.Outcome State Fault Refusal := .next (s.withBlock (s.setStrongLen value))

/-- RDREG MAGIC (41_config_commands R143). -/
def execRdregMagic (s : State) : Host.Outcome State Fault Refusal := .next (s.withBlock (s.rspPush (s.csr .magic)))

/-- RDREG BLOCK_LEN (41_config_commands R143). -/
def execRdregBlockLen (s : State) : Host.Outcome State Fault Refusal := .next (s.withBlock (s.rspPush (s.csr .blockLen)))

/-- RDREG STRONG_LEN (41_config_commands R143). -/
def execRdregStrongLen (s : State) : Host.Outcome State Fault Refusal := .next (s.withBlock (s.rspPush (s.csr .strongLen)))

/-- RDREG STATUS (41_config_commands R143). -/
def execRdregStatus (s : State) : Host.Outcome State Fault Refusal := .next (s.withBlock (s.rspPush (s.csr .status)))

/-- RDREG ERRINFO (41_config_commands R143). -/
def execRdregErrinfo (s : State) : Host.Outcome State Fault Refusal := .next (s.withBlock (s.rspPush (s.csr .errinfo)))

/-- RDREG S1 (41_config_commands R143). -/
def execRdregS1 (s : State) : Host.Outcome State Fault Refusal := .next (s.withBlock (s.rspPush (s.csr .s1)))

/-- RDREG S2 (41_config_commands R143). -/
def execRdregS2 (s : State) : Host.Outcome State Fault Refusal := .next (s.withBlock (s.rspPush (s.csr .s2)))

/-- RDREG COUNT (41_config_commands R143). -/
def execRdregCount (s : State) : Host.Outcome State Fault Refusal := .next (s.withBlock (s.rspPush (s.csr .count)))

end Sys2Proof.Machine
end

