-- ==== Sys2Proof/Machine/WindowCommands.lean ====
section
/-! DEFINITION. The meanings of NEW, UPDATE, ROLL_IN, ROLL_OUT, ROTATE, DIGEST (40_rwc_commands R110 to R122): total,
no flag, no exception, nothing touched but R and, for DIGEST, RSP. -/

namespace Sys2Proof.Machine

/-- NEW (40_rwc_commands R112). -/
def execNew (s : State) : Host.Outcome State Fault Refusal := .next (s.withBlock (s.setR Window.zero))

/-- UPDATE (40_rwc_commands R114). -/
def execUpdate (payload : List Byte) (s : State) : Host.Outcome State Fault Refusal :=
  .next (s.withBlock (s.setR (s.r.update payload)))

/-- ROLL_IN (40_rwc_commands R116). -/
def execRollIn (cIn : Byte) (s : State) : Host.Outcome State Fault Refusal := .next (s.withBlock (s.setR (s.r.rollIn cIn)))

/-- ROLL_OUT (40_rwc_commands R118). -/
def execRollOut (cOut : Byte) (s : State) : Host.Outcome State Fault Refusal := .next (s.withBlock (s.setR (s.r.rollOut cOut)))

/-- ROTATE (40_rwc_commands R120). -/
def execRotate (cOut cIn : Byte) (s : State) : Host.Outcome State Fault Refusal :=
  .next (s.withBlock (s.setR (s.r.rotate cOut cIn)))

/-- DIGEST (40_rwc_commands R122). -/
def execDigest (s : State) : Host.Outcome State Fault Refusal := .next (s.withBlock (s.rspPush s.r.digest))

end Sys2Proof.Machine
end

