-- ==== Sys2Proof/Machine/Dispatch.lean ====
section
/-! DEFINITION. exec: one arm for each command, each one direct call of that command's meaning. -/

namespace Sys2Proof.Machine

/-- What a command does to the state once it has been taken from CMD (20_memory R50). -/
def exec (i : Instr) (s : State) : Host.Outcome State Fault Refusal :=
  match i with
  | .new => Sys2Proof.Machine.execNew s
  | .update payload => Sys2Proof.Machine.execUpdate payload s
  | .rollIn cIn => Sys2Proof.Machine.execRollIn cIn s
  | .rollOut cOut => Sys2Proof.Machine.execRollOut cOut s
  | .rotate cOut cIn => Sys2Proof.Machine.execRotate cOut cIn s
  | .digest => Sys2Proof.Machine.execDigest s
  | .wrregBlockLen value => Sys2Proof.Machine.execWrregBlockLen value s
  | .wrregStrongLen value => Sys2Proof.Machine.execWrregStrongLen value s
  | .rdregMagic => Sys2Proof.Machine.execRdregMagic s
  | .rdregBlockLen => Sys2Proof.Machine.execRdregBlockLen s
  | .rdregStrongLen => Sys2Proof.Machine.execRdregStrongLen s
  | .rdregStatus => Sys2Proof.Machine.execRdregStatus s
  | .rdregErrinfo => Sys2Proof.Machine.execRdregErrinfo s
  | .rdregS1 => Sys2Proof.Machine.execRdregS1 s
  | .rdregS2 => Sys2Proof.Machine.execRdregS2 s
  | .rdregCount => Sys2Proof.Machine.execRdregCount s
  | .generate => Sys2Proof.Machine.execGenerate s

end Sys2Proof.Machine
end

