-- ==== Sys2Proof/Machine/Environment.lean ====
section
/-! DEFINITION. What the outside can do to the machine between two steps: the host on CMD, RSP and rst, the environment
on SRC, SNK and HASH, the platform on the streams (10_state R40, 20_memory R50 to R57, R72, 70_reset_and_hazards R220). -/

namespace Sys2Proof.Machine

/-- One action of the outside (log 22). -/
inductive EnvAction where
  /-- the host sends bytes on CMD (20_memory R50) -/
  | cmdSend (bytes : List Byte)
  /-- the host takes the oldest response word (20_memory R51) -/
  | rspTake
  /-- the source has one more answer ready (20_memory R52) -/
  | srcOffer (answer : SrcAnswer)
  /-- the sink has one more answer ready (20_memory R55) -/
  | snkOffer (answer : SnkAnswer)
  /-- HASH is ready to answer one more request (20_memory R57) -/
  | hashOffer
  /-- the platform binds another source to SRC (92_eei_decisions D28) -/
  | bindSource (answers : List SrcAnswer)
  /-- the platform binds another sink to SNK (92_eei_decisions D28) -/
  | bindSink (contents : List Byte) (answers : List SnkAnswer)
  /-- rst is asserted (70_reset_and_hazards R220) -/
  | rst
  deriving DecidableEq, Repr

/-- What it does to the state. -/
def State.env (s : State) : EnvAction → State
  | .cmdSend bytes => s.withBlock (s.setCmd s.taken (s.cmd ++ bytes))
  | .rspTake => { s with rsp := s.rsp.tail }
  | .srcOffer answer => { s with src := s.src ++ [answer] }
  | .snkOffer answer => { s with snk := s.snk ++ [answer] }
  | .hashOffer => { s with hashReady := s.hashReady + 1 }
  | .bindSource answers => { s with src := answers }
  | .bindSink contents answers => { s with snk := answers, sink := contents }
  | .rst => s.rst

/-- The response word the host gets when it takes one. -/
def State.rspHead (s : State) : Option Word := s.rsp.head?

end Sys2Proof.Machine
end

