-- ==== Sys2Proof/Machine/Step.lean ====
section
/-! DEFINITION. The step: in IDLE the block takes the next command or holds, in a run it makes the next action, in FAULT it
does nothing (20_memory R50, R68; 42_generate_pipeline R151 to R159; 60_exceptions R197). The block's own step takes the
environment's answers as an argument (00_scope R9); the host's closed step gives it those of the environment in State. -/

namespace Sys2Proof.Machine

/-- The block beside an environment that offers nothing: a command makes no transaction, so it needs none
(40_rwc_commands R110, 41_config_commands R140, 42_generate_pipeline R151). -/
def Block.alone (b : Block) : State := { State.reset with toBlock := b }

/-- A command run on the block. -/
def Block.run (b : Block) (i : Instr) : Host.Outcome Moved Fault Refusal :=
  match exec i b.alone with
  | .next t => .next { block := t.toBlock, made := [] }
  | .fault f => .fault f
  | .refused r => .refused r

/-- One step of the block, its environment's answers an argument (00_scope R9, 10_state R27). A hold is a step that leaves
the block as it is (log 3); so is a step in FAULT (log 4). -/
def stepWith (a : Answers) (b : Block) : Host.Outcome Moved Fault Refusal :=
  match b.phase with
  | .idle =>
    match fetch b with
    | .hold c => .next c.holds
    | .illegal info c => .next { block := c.raise .illegalCommand info, made := [] }
    | .command i c => c.run i
  | .hdr0 => actHdr0 a b
  | .hdr1 => actHdr1 a b
  | .hdr2 => actHdr2 a b
  | .fill => actFill a b
  | .weak => actWeak a b
  | .strong => actStrong a b
  | .fault => .next b.holds

/-- One step of the closed machine: the block's step under the answers the environment beside it gives now, and the
environment moved on by the transactions made (log 1). -/
def step (s : State) : Host.Outcome State Fault Refusal :=
  match stepWith s.answers s.toBlock with
  | .next m => .next (s.settle m)
  | .fault f => .fault f
  | .refused r => .refused r

/-- The state with an instruction's bytes at the front of CMD, where step takes its next command (log 18): the block
takes a command only in IDLE with no partial command, so both are set. -/
def State.withFetchWord (s : State) (nbits w : Nat) : State :=
  s.withBlock ((s.setCmd [] (tableBytes nbits w ++ s.cmd)).setPhase .idle)

end Sys2Proof.Machine
end

