-- ==== Sys2Proof/Safety.lean ====
section
/-! DEFINITION. The terms claims are stated in: the invariant of the state, moves and reachability, what a window
represents, the signature a run writes in closed form, the premise on the source, and which states differ only in
what no rule reads. -/

namespace Sys2Proof

open Machine

/-! ### The invariant -/

/-- The phases of a run in progress (10_state R27). -/
def Machine.Phase.running : Phase → Bool
  | .idle => false
  | .hdr0 => true
  | .hdr1 => true
  | .hdr2 => true
  | .fill => true
  | .weak => true
  | .strong => true
  | .fault => false

/-- The configuration GENERATE accepts (42_generate_pipeline R151). -/
def legalConfig (blockLen strongLen : Word) : Prop :=
  0 < blockLen.toNat ∧ blockLen.toNat ≤ Config.bufCap ∧ strongLen.toNat ≤ 32

/-- The bytes of a partly received command that have left CMD: none, or a whole legal UPDATE header of a command with a
payload (10_state R38). -/
def partialCommand (taken : List Byte) : Prop :=
  taken = [] ∨
    ∃ len : Word, len ≠ 0#32 ∧
      taken = Header.bytes { opc := 0x02#8, a := 0#8, b := 0#8, z := 0#8, imm := len }

/-- What holds of every state the machine can be in. -/
structure Inv (s : State) : Prop where
  /-- BUF keeps its canonical form -/
  bufWf : s.buf.wf = true
  /-- "largest `block_len` the block buffer can hold" (00_scope R8) -/
  bufBelow : s.buf.below Config.bufCap = true
  /-- "1 when `phase = FAULT`" (10_state R33) -/
  faultIff : s.status.fault = true ↔ s.phase = .fault
  /-- "0 when `FAULT = 0`" (10_state R33), and a cause code is a fault's (60_exceptions R191) -/
  causeIff : s.status.cause = .none ↔ s.status.fault = false
  /-- "`FAULT` and `DONE` are never both 1" (10_state R33) -/
  notBoth : ¬(s.status.fault = true ∧ s.status.done = true)
  /-- "0 when `STATUS.FAULT = 0`" (10_state R34) -/
  errinfoZero : s.status.fault = false → s.errinfo = 0#32
  /-- a run clears DONE at its start (42_generate_pipeline R151) -/
  runningNotDone : s.phase.running = true → s.status.done = false
  /-- a run has a legal configuration (42_generate_pipeline R151, 41_config_commands R144) -/
  runningConfig : s.phase.running = true → legalConfig s.blockLen s.strongLen
  /-- `0 <= fill <= BLOCK_LEN` while a block is assembled (10_state R37) -/
  fillBound : s.phase = .fill → s.fill.toNat ≤ s.blockLen.toNat
  /-- "here `1 <= fill <= BLOCK_LEN`" (42_generate_pipeline R156) -/
  blockBound : s.phase = .weak ∨ s.phase = .strong → 1 ≤ s.fill.toNat ∧ s.fill.toNat ≤ s.blockLen.toNat
  /-- a partly received command (10_state R38) -/
  takenOk : partialCommand s.taken
  /-- a command is taken in IDLE only (20_memory R50) -/
  takenIdle : s.phase ≠ .idle → s.taken = []

/-! ### Moves -/

/-- A state that steps of the block and actions of the outside, in any order, reach from reset (70_reset_and_hazards R222). -/
inductive Reachable : State → Prop where
  | reset : Reachable State.reset
  | step (s t : State) (h : Reachable s) (e : step s = .next t) : Reachable t
  | env (s : State) (a : EnvAction) (h : Reachable s) : Reachable (s.env a)

/-- A completed run: the response word says so and the machine has not faulted (60_exceptions R197). -/
def completed (s : State) : Prop := s.phase = .idle ∧ s.faultOut = false ∧ s.status.done = true

/-- Fault entry by a GENERATE run, seen from outside: STATUS, ERRINFO, phase and the one response word change, every
other register of the host, BUF, fill and CMD stay (60_exceptions R196, R198). -/
def faultedBy (s t : State) (cause : Cause) (info word : Word) : Prop :=
  t.status = { fault := true, done := false, cause := cause } ∧ t.errinfo = info ∧ t.phase = .fault ∧
    t.rsp = s.rsp ++ [word] ∧ t.r = s.r ∧ t.blockLen = s.blockLen ∧ t.strongLen = s.strongLen ∧
    t.buf = s.buf ∧ t.fill = s.fill ∧ t.taken = s.taken ∧ t.cmd = s.cmd

/-- The next action of a run waits for an answer that has not come, of the port that action uses (60_exceptions R202,
R211): the source in FILL with free space, the sink for a write, HASH in STRONG. -/
def awaitsAnswer (s : State) : Prop :=
  (s.phase = .fill ∧ s.fill.toNat < s.blockLen.toNat ∧ s.src = []) ∨
  ((s.phase = .hdr0 ∨ s.phase = .hdr1 ∨ s.phase = .hdr2 ∨ s.phase = .weak) ∧ s.snk = []) ∨
  (s.phase = .strong ∧ (s.hashReady = 0 ∨ (s.strongLen ≠ 0#32 ∧ s.snk = [])))

/-- The commands that push a response word, one each (20_memory R51). -/
def responders : List Instr :=
  [.digest, .rdregMagic, .rdregBlockLen, .rdregStrongLen, .rdregStatus, .rdregErrinfo, .rdregS1, .rdregS2,
    .rdregCount, .generate]

/-- A transaction's sizes (20_memory R52, R55, R57, R65). -/
def legalTransaction (blockLen : Word) : Transaction → Prop
  | .srcRead max (.data bytes) => 1 ≤ max.toNat ∧ max.toNat ≤ blockLen.toNat ∧ bytes.length ≤ max.toNat
  | .srcRead max (.err _) => 1 ≤ max.toNat ∧ max.toNat ≤ blockLen.toNat
  | .snkWrite bytes _ => 1 ≤ bytes.length
  | .hash block => 1 ≤ block.length ∧ block.length ≤ blockLen.toNat

/-- A transaction on SRC or SNK. -/
def Machine.Transaction.onStream : Transaction → Bool
  | .srcRead _ _ => true
  | .snkWrite _ _ => true
  | .hash _ => false

/-! ### Windows -/

/-- The sum of the bytes, each as a number. -/
def byteSum : List Byte → Nat
  | [] => 0
  | b :: bs => b.toNat + byteSum bs

/-- `sum_{i=1..n} (n - i + 1) * b_i`: the first byte weighs `n`, the last 1 (10_state R23). -/
def positionSum : List Byte → Nat
  | [] => 0
  | b :: bs => (bs.length + 1) * b.toNat + positionSum bs

/-- "the values that a from-scratch whole-buffer computation over the same window would produce", in closed form, for a
window that holds these bytes, oldest first (10_state R23). -/
def represents (v : Window) (bytes : List Byte) : Prop :=
  v.count.toNat = bytes.length % 65536 ∧
  v.s1.toNat = (byteSum bytes + 31 * bytes.length) % 65536 ∧
  v.s2.toNat = (positionSum bytes + 31 * triangular bytes.length) % 65536

/-- The window's bytes after a window command used as the host must use it: ROLL_OUT and ROTATE give the oldest byte
(70_reset_and_hazards R232); `none` for a use that breaks the discipline or is no window command. -/
def windowAfter (bytes : List Byte) : Instr → Option (List Byte)
  | .new => some []
  | .update payload => some (bytes ++ payload)
  | .rollIn cIn => some (bytes ++ [cIn])
  | .rollOut cOut => if bytes.head? = some cOut then some bytes.tail else none
  | .rotate cOut cIn => if bytes.head? = some cOut then some (bytes.tail ++ [cIn]) else none
  | .digest => some bytes
  | .wrregBlockLen _ => none
  | .wrregStrongLen _ => none
  | .rdregMagic => none
  | .rdregBlockLen => none
  | .rdregStrongLen => none
  | .rdregStatus => none
  | .rdregErrinfo => none
  | .rdregS1 => none
  | .rdregS2 => none
  | .rdregCount => none
  | .generate => none

/-- The window's bytes after a sequence of well-formed uses. -/
def windowAfterAll : List Byte → List Instr → Option (List Byte)
  | bytes, [] => some bytes
  | bytes, i :: is => (windowAfter bytes i).bind (fun b => windowAfterAll b is)

/-- The commands run one after another, each whole (20_memory R50, R68). -/
def execAll : List Instr → State → Host.Outcome State Fault Refusal
  | [], s => .next s
  | i :: is, s =>
    match exec i s with
    | .next t => execAll is t
    | .fault f => .fault f
    | .refused r => .refused r

/-! ### The signature in closed form (42_generate_pipeline R161) -/

/-- `m = ceil(N / BL)`. -/
def blockCount (blockLen n : Nat) : Nat := (n + blockLen - 1) / blockLen

/-- `B_k = X[k*BL .. min((k+1)*BL, N))`. -/
def blockAt (blockLen : Nat) (x : List Byte) (k : Nat) : List Byte := (x.drop (k * blockLen)).take blockLen

/-- `B_0 ... B_{m-1}`. -/
def blocksOf (blockLen : Nat) (x : List Byte) : List (List Byte) :=
  (List.range (blockCount blockLen x.length)).map (blockAt blockLen x)

/-- `BE32(weak(B)) ++ H(B)[0 .. SL)` (20_memory R61). -/
def recordOf (strongLen : Word) (block : List Byte) : List Byte :=
  be32 (Window.zero.update block).digest ++ strongDigest strongLen block

/-- `BE32(MAGIC) ++ BE32(BL) ++ BE32(SL)` (20_memory R60). -/
def signatureHeader (blockLen strongLen : Word) : List Byte :=
  be32 Config.magicValue ++ be32 blockLen ++ be32 strongLen

/-- `Sig(BL, SL, X)` (42_generate_pipeline R161). -/
def signature (blockLen strongLen : Word) (x : List Byte) : List Byte :=
  signatureHeader blockLen strongLen ++ (blocksOf blockLen.toNat x).flatMap (recordOf strongLen)

/-- How many writes a successful run makes: three for the header and one or two for each record (20_memory R65). -/
def writesOf (blockLen strongLen : Word) (n : Nat) : Nat :=
  3 + blockCount blockLen.toNat n * (if strongLen = 0#32 then 1 else 2)

/-! ### The source -/

/-- The premise `SrcExhaustionTerminated` on the answers a source will give: it answers zero bytes only when no byte is
left (20_memory R54). The machine does not assume it. -/
def srcExhaustionTerminated : List SrcAnswer → Prop
  | [] => True
  | .data [] :: q => ∀ a ∈ q, a = .data []
  | .data (_ :: _) :: q => srcExhaustionTerminated q
  | .err _ :: q => srcExhaustionTerminated q

/-- Every byte a source will deliver. -/
def srcBytes : List SrcAnswer → List Byte
  | [] => []
  | .data bytes :: q => bytes ++ srcBytes q
  | .err _ :: q => srcBytes q

/-! ### What no rule reads -/

/-- The two states agree but for W and for the bytes of BUF at and above `fill` (10_state R36, R37). -/
def sameButStale (s t : State) : Prop :=
  (∀ a, a < s.fill.toNat → s.buf.read a = t.buf.read a) ∧ t = { s with w := t.w, buf := t.buf }

/-- Two outcomes agree but for what no rule reads. -/
def outcomeSameButStale : Host.Outcome State Fault Refusal → Host.Outcome State Fault Refusal → Prop
  | .next s, .next t => sameButStale s t
  | .fault f, .fault g => f = g
  | .refused p, .refused q => p = q
  | .next _, .fault _ => False
  | .next _, .refused _ => False
  | .fault _, .next _ => False
  | .fault _, .refused _ => False
  | .refused _, .next _ => False
  | .refused _, .fault _ => False

end Sys2Proof
end

