-- ==== Sys2Proof/Certificates/Slice0/Obligations.lean ====
section
/-! DEFINITION. The statements for the provers, from the numbered rules of spec/. -/

open Sys2Proof Sys2Proof.Machine

/-! ### Encoding -/

/-- Decoding what the encoder writes gives the command back and leaves the bytes after it (30_encoding R80, R84, R85). -/
def Obligations.DecodeOfEncode : Prop :=
  ∀ (i : Instr) (rest : List Byte), i.wellFormed = true → decode (encode i ++ rest) = .command i rest

/-- Encoding a decoded command gives back the bytes it was read from (30_encoding R80, R85). -/
def Obligations.EncodeOfDecode : Prop :=
  ∀ (bytes : List Byte) (i : Instr) (rest : List Byte),
    decode bytes = .command i rest → bytes = encode i ++ rest ∧ i.wellFormed = true

/-- Two different legal headers never decode to the same command with the same operands, and the command's header is
the one it was decoded from (30_encoding R85). -/
def Obligations.HeaderDecodingIsInjective : Prop :=
  (∀ h k : Header, (∀ why, decodeHeader h ≠ .illegal why) → decodeHeader h = decodeHeader k → h = k) ∧
  (∀ (h : Header) (i : Instr), decodeHeader h = .command i → encode i = h.bytes) ∧
  (∀ (h : Header) (payload : List Byte), decodeHeader h = .updateHeader (BitVec.ofNat 32 payload.length) →
    encode (.update payload) = h.bytes ++ payload)

/-- A header is illegal exactly when it selects no row of the opcode table, which is exactly when one of the five items
of 30_encoding R90 holds. -/
def Obligations.IllegalHeaderItems : Prop :=
  ∀ h : Header,
    ((∃ why, decodeHeader h = .illegal why) ↔ ∀ row ∈ opcodeTable, row.selects h.toBits = false) ∧
    ((∃ why, decodeHeader h = .illegal why) ↔
      h.opc ∉ [0x01#8, 0x02#8, 0x03#8, 0x04#8, 0x05#8, 0x06#8, 0x10#8, 0x11#8, 0x20#8] ∨
      h.z ≠ 0#8 ∨
      (h.opc ∈ [0x01#8, 0x06#8, 0x20#8] ∧ (h.a ≠ 0#8 ∨ h.b ≠ 0#8 ∨ h.imm ≠ 0#32)) ∨
      (h.opc = 0x02#8 ∧ (h.a ≠ 0#8 ∨ h.b ≠ 0#8)) ∨
      (h.opc = 0x03#8 ∧ (h.a ≠ 0#8 ∨ h.imm ≠ 0#32)) ∨
      (h.opc = 0x04#8 ∧ (h.b ≠ 0#8 ∨ h.imm ≠ 0#32)) ∨
      (h.opc = 0x05#8 ∧ h.imm ≠ 0#32) ∨
      (h.opc = 0x10#8 ∧ (h.b ≠ 0#8 ∨ h.a ∉ [0x01#8, 0x02#8])) ∨
      (h.opc = 0x11#8 ∧ (h.b ≠ 0#8 ∨ h.imm ≠ 0#32 ∨
        h.a ∉ [0x00#8, 0x01#8, 0x02#8, 0x03#8, 0x04#8, 0x10#8, 0x11#8, 0x12#8])))

/-- The mask and match columns decide decoding: a header that selects a row decodes to that row's command, one that
selects none is illegal, and no two rows overlap (30_encoding R84). -/
def Obligations.OpcodeTableDecidesDecoding : Prop :=
  (∀ (v : BitVec 64) (row : TableRow), row ∈ opcodeTable → row.selects v = true →
    (decodeHeader (headerOfBits v)).mnemonic? = some row.mnemonic) ∧
  (∀ v : BitVec 64, (∀ row ∈ opcodeTable, row.selects v = false) →
    ∃ why, decodeHeader (headerOfBits v) = .illegal why) ∧
  opcodeTable.Pairwise (fun p q => ∀ v : BitVec 64, ¬(p.selects v = true ∧ q.selects v = true))

/-- A command is eight header bytes, most significant first, and after a legal UPDATE header its `LEN = header[31:0]`
payload bytes; an illegal header is eight bytes (30_encoding R80). -/
def Obligations.CommandFraming : Prop :=
  ∀ (v : BitVec 64) (rest : List Byte),
    let header := (List.range 8).map (fun k => v.extractLsb' (56 - 8 * k) 8)
    (∀ why, decodeHeader (headerOfBits v) = .illegal why →
      decode (header ++ rest) = .illegal why (v.extractLsb' 32 32) rest) ∧
    (∀ i, decodeHeader (headerOfBits v) = .command i → decode (header ++ rest) = .command i rest) ∧
    (∀ len, decodeHeader (headerOfBits v) = .updateHeader len →
      len = v.extractLsb' 0 32 ∧
      (rest.length < len.toNat → decode (header ++ rest) = .needPayload) ∧
      (∀ payload more : List Byte, rest = payload ++ more → payload.length = len.toNat →
        decode (header ++ rest) = .command (.update payload) more)) ∧
    (∀ short : List Byte, short.length < 8 → decode short = .needHeader)

/-- Words written out from the spec's encodings decode to the commands they stand for (30_encoding R96). -/
def Obligations.WorkedEncodingsDecode : Prop :=
  decode [0x01#8, 0x00#8, 0x00#8, 0x00#8, 0x00#8, 0x00#8, 0x00#8, 0x00#8] = .command .new [] ∧
  decode [0x02#8, 0x00#8, 0x00#8, 0x00#8, 0x00#8, 0x00#8, 0x00#8, 0x03#8, 0x61#8, 0x62#8, 0x63#8] =
    .command (.update [0x61#8, 0x62#8, 0x63#8]) [] ∧
  decode [0x05#8, 0x41#8, 0x7A#8, 0x00#8, 0x00#8, 0x00#8, 0x00#8, 0x00#8] = .command (.rotate 0x41#8 0x7A#8) [] ∧
  decode [0x10#8, 0x01#8, 0x00#8, 0x00#8, 0x00#8, 0x00#8, 0x00#8, 0x04#8] = .command (.wrregBlockLen 4#32) [] ∧
  decode [0x11#8, 0x12#8, 0x00#8, 0x00#8, 0x00#8, 0x00#8, 0x00#8, 0x00#8] = .command .rdregCount [] ∧
  decode [0x20#8, 0x00#8, 0x00#8, 0x00#8, 0x00#8, 0x00#8, 0x00#8, 0x00#8] = .command .generate [] ∧
  decode [0x03#8, 0x01#8, 0x41#8, 0x00#8, 0x00#8, 0x00#8, 0x00#8, 0x00#8] =
    .illegal .unusedField 0x03014100#32 []

/-! ### The step -/

/-- An idle block whose CMD holds a whole command runs exactly it, its bytes taken (20_memory R50). -/
def Obligations.StepRunsTheDecodedCommand : Prop :=
  ∀ (s : State) (i : Instr) (rest : List Byte), s.phase = .idle → decode (s.taken ++ s.cmd) = .command i rest →
    step s = exec i { s with taken := [], cmd := rest }

/-- The bytes of a well-formed command at the front of CMD are run as that command (20_memory R50, 30_encoding R80). -/
def Obligations.StepRunsTheEncodedCommand : Prop :=
  ∀ (s : State) (i : Instr) (rest : List Byte), s.phase = .idle → i.wellFormed = true →
    s.taken ++ s.cmd = encode i ++ rest → step s = exec i { s with taken := [], cmd := rest }

/-- An illegal header is taken as eight bytes and enters the fault state with `info = header[63:32]`; nothing else
changes and nothing is pushed (30_encoding R91). -/
def Obligations.IllegalHeaderEntersFault : Prop :=
  ∀ (s : State) (h : Header) (why : IllegalHeader) (rest : List Byte), s.phase = .idle →
    s.taken ++ s.cmd = h.bytes ++ rest → decodeHeader h = .illegal why →
    ∃ t, step s = .next t ∧ step t = .next t ∧ (t.csr .status) = 0x00000101#32 ∧
      t = { s with
        taken := [], cmd := rest, status := { fault := true, done := false, cause := .illegalCommand },
        errinfo := h.toBits.extractLsb' 32 32, phase := .fault }

/-- A command not yet whole has no effect: the block holds, no byte is lost, nothing but the place of the bytes changes,
and the hold lasts (20_memory R50). -/
def Obligations.PartialCommandHasNoEffect : Prop :=
  ∀ s : State, s.phase = .idle →
    decode (s.taken ++ s.cmd) = .needHeader ∨ decode (s.taken ++ s.cmd) = .needPayload →
    ∃ t, step s = .next t ∧ t.taken ++ t.cmd = s.taken ++ s.cmd ∧
      t = { s with taken := t.taken, cmd := t.cmd } ∧ step t = .next t

/-- How the host cuts a command into pieces cannot be seen: holding on a first piece and then taking the rest is taking
the whole (20_memory R50). -/
def Obligations.ArrivalInPiecesIsInvisible : Prop :=
  ∀ (s : State) (i : Instr) (first second : List Byte), s.phase = .idle → i.wellFormed = true →
    s.taken ++ s.cmd = first → first ++ second = encode i → second ≠ [] →
    ∃ t, step s = .next t ∧ step (t.env (.cmdSend second)) = step (s.env (.cmdSend second)) ∧
      step (t.env (.cmdSend second)) = exec i { s with taken := [], cmd := [] }

/-- In the fault state a step changes nothing, and no action of the outside but `rst` leaves it (60_exceptions R197, R199). -/
def Obligations.FaultStateIsSticky : Prop :=
  ∀ s : State, s.phase = .fault →
    step s = .next s ∧
    ∀ a : EnvAction, a ≠ .rst →
      (s.env a).phase = .fault ∧ (s.env a).status = s.status ∧ (s.env a).errinfo = s.errinfo

/-! ### Invariants -/

/-- The state after reset meets the invariant. -/
def Obligations.ResetMeetsTheInvariant : Prop := Inv State.reset

/-- Every step from a state that meets the invariant gives a state that meets it. -/
def Obligations.StepKeepsTheInvariant : Prop :=
  ∀ s t : State, Inv s → step s = .next t → Inv t

/-- Every action of the outside, `rst` among them, keeps the invariant. -/
def Obligations.EnvironmentKeepsTheInvariant : Prop :=
  ∀ (s : State) (a : EnvAction), Inv s → Inv (s.env a)

/-- No step from a state that meets the invariant stops: BUF is never read outside `BUF[0 .. BLOCK_LEN-1]`. -/
def Obligations.NoStopUnderTheInvariant : Prop :=
  ∀ s : State, Inv s → ∃ t, step s = .next t

/-- Whatever host, source, sink and platform do, the machine never stops. -/
def Obligations.ReachableStatesNeverStop : Prop :=
  ∀ s : State, Reachable s → ∃ t, step s = .next t

/-! ### The window commands -/

/-- NEW: R becomes the zero state, all else stays (40_rwc_commands R112). -/
def Obligations.NewGivesTheZeroState : Prop :=
  encode .new = [0x01#8, 0x00#8, 0x00#8, 0x00#8, 0x00#8, 0x00#8, 0x00#8, 0x00#8] ∧
  ∀ s : State, exec .new s = .next { s with r := { s1 := 0#16, s2 := 0#16, count := 0#16 } }

/-- ROLL_IN, on unbounded integers reduced modulo 2^16; all but R stays (40_rwc_commands R116). -/
def Obligations.RollInResult : Prop :=
  ∀ (s : State) (cIn : Byte),
    encode (.rollIn cIn) = [0x03#8, 0x00#8, cIn, 0x00#8, 0x00#8, 0x00#8, 0x00#8, 0x00#8] ∧
    ∃ t, exec (.rollIn cIn) s = .next t ∧ t = { s with r := t.r } ∧
    t.r.s1.toNat = (s.r.s1.toNat + (31 + cIn.toNat)) % 65536 ∧
    t.r.s2.toNat = (s.r.s2.toNat + t.r.s1.toNat) % 65536 ∧
    t.r.count.toNat = (s.r.count.toNat + 1) % 65536

/-- ROLL_OUT: the multiplier is the count before the command; `count = 0` is no error (40_rwc_commands R118). -/
def Obligations.RollOutResult : Prop :=
  ∀ (s : State) (cOut : Byte),
    encode (.rollOut cOut) = [0x04#8, cOut, 0x00#8, 0x00#8, 0x00#8, 0x00#8, 0x00#8, 0x00#8] ∧
    ∃ t, exec (.rollOut cOut) s = .next t ∧ t = { s with r := t.r } ∧
    (t.r.s1.toNat : Int) = ((s.r.s1.toNat : Int) - (cOut.toNat + 31)) % 65536 ∧
    (t.r.s2.toNat : Int) = ((s.r.s2.toNat : Int) - s.r.count.toNat * (cOut.toNat + 31)) % 65536 ∧
    (t.r.count.toNat : Int) = ((s.r.count.toNat : Int) - 1) % 65536

/-- ROTATE: `s2` takes the new `s1`, `count` is not written (40_rwc_commands R120). -/
def Obligations.RotateResult : Prop :=
  ∀ (s : State) (cOut cIn : Byte),
    encode (.rotate cOut cIn) = [0x05#8, cOut, cIn, 0x00#8, 0x00#8, 0x00#8, 0x00#8, 0x00#8] ∧
    ∃ t, exec (.rotate cOut cIn) s = .next t ∧ t = { s with r := t.r } ∧
    (t.r.s1.toNat : Int) = ((s.r.s1.toNat : Int) + cIn.toNat - cOut.toNat) % 65536 ∧
    (t.r.s2.toNat : Int) =
      ((s.r.s2.toNat : Int) + t.r.s1.toNat - s.r.count.toNat * (cOut.toNat + 31)) % 65536 ∧
    t.r.count = s.r.count

/-- UPDATE leaves R as its payload's ROLL_INs would, which is the closed form; all but R stays
(40_rwc_commands R114, R115). -/
def Obligations.UpdateResult : Prop :=
  ∀ (s : State) (payload : List Byte),
    encode (.update payload) =
      [0x02#8, 0x00#8, 0x00#8, 0x00#8] ++ be32 (BitVec.ofNat 32 payload.length) ++ payload ∧
    ∃ t, exec (.update payload) s = .next t ∧ t = { s with r := t.r } ∧
    execAll (payload.map Instr.rollIn) s = .next t ∧
    t.r.s1.toNat = (s.r.s1.toNat + byteSum payload + 31 * payload.length) % 65536 ∧
    t.r.s2.toNat =
      (s.r.s2.toNat + payload.length * s.r.s1.toNat + positionSum payload + 31 * triangular payload.length) % 65536 ∧
    t.r.count.toNat = (s.r.count.toNat + payload.length) % 65536

/-- One whole-buffer update is two successive updates at any split point (40_rwc_commands R124). -/
def Obligations.UpdateIsAdditive : Prop :=
  ∀ (s : State) (buffer : List Byte) (k : Nat), k ≤ buffer.length →
    exec (.update buffer) s = execAll [.update (buffer.take k), .update (buffer.drop k)] s

/-- `UPDATE` with `LEN = 0` is legal, has no payload and leaves R unchanged (30_encoding R86). -/
def Obligations.EmptyUpdateChangesNothing : Prop :=
  (∀ rest : List Byte,
    decode ([0x02#8, 0x00#8, 0x00#8, 0x00#8, 0x00#8, 0x00#8, 0x00#8, 0x00#8] ++ rest) = .command (.update []) rest) ∧
  ∀ s : State, exec (.update []) s = .next s

/-- DIGEST pushes `(s2 << 16) | s1` and changes nothing else; the zero state gives 0 (40_rwc_commands R122). -/
def Obligations.DigestPushesTheDigest : Prop :=
  encode .digest = [0x06#8, 0x00#8, 0x00#8, 0x00#8, 0x00#8, 0x00#8, 0x00#8, 0x00#8] ∧
  ∀ s : State, ∃ word : Word, exec .digest s = .next { s with rsp := s.rsp ++ [word] } ∧
    word.toNat = s.r.s2.toNat * 65536 + s.r.s1.toNat ∧ (s.r = Window.zero → word = 0#32)

/-- The digest of the bytes 0, 1, ..., 255 from the zero state (40_rwc_commands R128). -/
def Obligations.KnownVectorDigest : Prop :=
  (Window.zero.update ((List.range 256).map (BitVec.ofNat 8))).digest = 0x3A009E80#32 ∧
  Window.zero.update ((List.range 256).map (BitVec.ofNat 8)) =
    { s1 := 0x9E80#16, s2 := 0x3A00#16, count := 256#16 }

/-- ROLL_IN then ROLL_OUT of one byte returns `s1` and `count` always, and `s2` exactly when `s1 = count * (c + 31)`,
as it is when the window holds only bytes equal to `c` (40_rwc_commands R125). -/
def Obligations.RollInThenRollOut : Prop :=
  ∀ (s : State) (c : Byte), ∃ t, execAll [.rollIn c, .rollOut c] s = .next t ∧ t = { s with r := t.r } ∧
    t.r.s1 = s.r.s1 ∧ t.r.count = s.r.count ∧
    (t.r.s2.toNat : Int) =
      ((s.r.s2.toNat : Int) + s.r.s1.toNat - s.r.count.toNat * (c.toNat + 31)) % 65536 ∧
    (t.r.s2 = s.r.s2 ↔ s.r.s1.toNat = s.r.count.toNat * (c.toNat + 31) % 65536) ∧
    ∀ n : Nat, represents s.r (List.replicate n c) → t = s

/-- ROTATE reaches the state that ROLL_OUT then ROLL_IN reaches, in all three registers; between the two `count` is one
lower (40_rwc_commands R127). -/
def Obligations.RotateEqualsRollOutThenRollIn : Prop :=
  ∀ (s : State) (cOut cIn : Byte),
    exec (.rotate cOut cIn) s = execAll [.rollOut cOut, .rollIn cIn] s ∧
    ∃ u, exec (.rollOut cOut) s = .next u ∧ u.r.count = s.r.count - 1#16

/-- ROLL_INs of two bytes in the two orders give the same `s1`, and the same `s2` only for equal bytes
(40_rwc_commands R130). -/
def Obligations.OrderOfBytesMatters : Prop :=
  ∀ (s : State) (a b : Byte), ∃ t u, execAll [.rollIn a, .rollIn b] s = .next t ∧
    execAll [.rollIn b, .rollIn a] s = .next u ∧ t.r.s1 = u.r.s1 ∧ (t.r.s2 = u.r.s2 ↔ a = b)

/-- After any sequence of well-formed window commands `s1`, `s2`, `count` are what a from-scratch computation over the
bytes now in the window gives, for windows of any length (10_state R23). -/
def Obligations.WindowRefinesItsBytes : Prop :=
  (∀ s : State, s.r = Window.zero → represents s.r []) ∧
  ∀ (is : List Instr) (bytes after : List Byte) (s : State), represents s.r bytes →
    windowAfterAll bytes is = some after →
    ∃ t, execAll is s = .next t ∧ represents t.r after ∧ t = { s with r := t.r, rsp := t.rsp }

/-- The window commands act on R alone, but for the word DIGEST pushes, and always complete (40_rwc_commands R110). -/
def Obligations.WindowCommandsActOnTheWindow : Prop :=
  ∀ (s : State) (payload : List Byte) (cOut cIn : Byte) (i : Instr),
    i ∈ [.new, .update payload, .rollIn cIn, .rollOut cOut, .rotate cOut cIn, .digest] →
    ∃ t, exec i s = .next t ∧ t = { s with r := t.r, rsp := t.rsp } ∧
      (i ≠ .digest → t.rsp = s.rsp) ∧ (i = .digest → t.r = s.r)

/-- FRESH pushes one word, the digest of the string from the zero state; SETOPT writes both configuration registers
(30_encoding R95). -/
def Obligations.PseudoCommandExpansions : Prop :=
  ∀ (s : State) (bytes : List Byte) (blockLen strongLen : Word),
    (Pseudo.fresh bytes).expand = [.new, .update bytes, .digest] ∧
    (Pseudo.setopt blockLen strongLen).expand = [.wrregBlockLen blockLen, .wrregStrongLen strongLen] ∧
    (∃ t, execAll (Pseudo.fresh bytes).expand s = .next t ∧
      t.rsp = s.rsp ++ [(Window.zero.update bytes).digest] ∧ represents t.r bytes) ∧
    execAll (Pseudo.setopt blockLen strongLen).expand s =
      .next { s with blockLen := blockLen, strongLen := strongLen }

/-! ### The register commands -/

/-- WRREG stores all 32 bits as given, changes nothing else, and RDREG reads them back (41_config_commands R141). -/
def Obligations.WrregStoresTheValue : Prop :=
  ∀ (s : State) (value : Word),
    encode (.wrregBlockLen value) = [0x10#8, 0x01#8, 0x00#8, 0x00#8] ++ be32 value ∧
    encode (.wrregStrongLen value) = [0x10#8, 0x02#8, 0x00#8, 0x00#8] ++ be32 value ∧
    exec (.wrregBlockLen value) s = .next { s with blockLen := value } ∧
    exec (.wrregStrongLen value) s = .next { s with strongLen := value } ∧
    execAll [.wrregBlockLen value, .rdregBlockLen] s = .next { s with blockLen := value, rsp := s.rsp ++ [value] } ∧
    execAll [.wrregStrongLen value, .rdregStrongLen] s = .next { s with strongLen := value, rsp := s.rsp ++ [value] }

/-- RDREG pushes the register's value, one word, and changes nothing else (41_config_commands R143). -/
def Obligations.RdregPushesTheRegister : Prop :=
  ∀ s : State,
    [Instr.rdregMagic, .rdregBlockLen, .rdregStrongLen, .rdregStatus, .rdregErrinfo, .rdregS1, .rdregS2,
      .rdregCount].map encode =
      [0x00#8, 0x01#8, 0x02#8, 0x03#8, 0x04#8, 0x10#8, 0x11#8, 0x12#8].map
        (fun n => [0x11#8, n, 0x00#8, 0x00#8, 0x00#8, 0x00#8, 0x00#8, 0x00#8]) ∧
    exec .rdregMagic s = .next { s with rsp := s.rsp ++ [0x72730137#32] } ∧
    exec .rdregBlockLen s = .next { s with rsp := s.rsp ++ [s.blockLen] } ∧
    exec .rdregStrongLen s = .next { s with rsp := s.rsp ++ [s.strongLen] } ∧
    exec .rdregStatus s = .next { s with rsp := s.rsp ++ [s.status.word] } ∧
    exec .rdregErrinfo s = .next { s with rsp := s.rsp ++ [s.errinfo] } ∧
    exec .rdregS1 s = .next { s with rsp := s.rsp ++ [BitVec.ofNat 32 s.r.s1.toNat] } ∧
    exec .rdregS2 s = .next { s with rsp := s.rsp ++ [BitVec.ofNat 32 s.r.s2.toNat] } ∧
    exec .rdregCount s = .next { s with rsp := s.rsp ++ [BitVec.ofNat 32 s.r.count.toNat] }

/-- An RDREG that runs, runs in IDLE, where STATUS reads 0 or 2 and ERRINFO reads 0 (41_config_commands R143). -/
def Obligations.IdleStatusReadsZeroOrDone : Prop :=
  ∀ (s : State) (rest : List Byte), Inv s → s.phase = .idle →
    (decode (s.taken ++ s.cmd) = .command .rdregStatus rest →
      ∃ word, step s = .next { s with taken := [], cmd := rest, rsp := s.rsp ++ [word] } ∧
        word = if s.status.done then 0x00000002#32 else 0x00000000#32) ∧
    (decode (s.taken ++ s.cmd) = .command .rdregErrinfo rest →
      step s = .next { s with taken := [], cmd := rest, rsp := s.rsp ++ [0#32] })

/-- STATUS: FAULT bit 0, DONE bit 1, CAUSE bits 11:8, the rest 0; the sideband outputs mirror it
(10_state R33, R40; 60_exceptions R191). -/
def Obligations.StatusWordLayout : Prop :=
  ∀ s : State,
    (s.csr .status).getLsbD 0 = s.status.fault ∧ (s.csr .status).getLsbD 1 = s.status.done ∧
    (s.csr .status).extractLsb' 2 6 = 0#6 ∧ (s.csr .status).extractLsb' 8 4 = s.status.cause.code ∧
    (s.csr .status).extractLsb' 12 20 = 0#20 ∧
    s.faultOut = (s.csr .status).getLsbD 0 ∧ s.causeOut = (s.csr .status).extractLsb' 8 4 ∧
    s.errinfoOut = s.csr .errinfo

/-! ### GENERATE -/

/-- The start action: DONE is cleared; a legal configuration starts the run, any other enters the fault state with the
mask of the failed checks, before any transaction (42_generate_pipeline R151). That the sink's contents are as before a
CONFIG_ERROR is the model's choice (log 13). -/
def Obligations.GenerateStartAction : Prop :=
  ∀ s : State,
    (0 < s.blockLen.toNat ∧ s.strongLen.toNat ≤ 32 ∧ s.blockLen.toNat ≤ Config.bufCap →
      exec .generate s = .next { s with status := { s.status with done := false }, phase := .hdr0 }) ∧
    (¬(0 < s.blockLen.toNat ∧ s.strongLen.toNat ≤ 32 ∧ s.blockLen.toNat ≤ Config.bufCap) →
      ∃ mask : Word,
        exec .generate s = .next { s with
          status := { fault := true, done := false, cause := .configError }, errinfo := mask, phase := .fault,
          rsp := s.rsp ++ [0x00000201#32] } ∧
        mask.getLsbD 0 = decide (s.blockLen.toNat = 0) ∧ mask.getLsbD 1 = decide (32 < s.strongLen.toNat) ∧
        mask.getLsbD 2 = decide (Config.bufCap < s.blockLen.toNat) ∧ mask.extractLsb' 3 29 = 0#29)

/-- The three header actions, in order, each one write; after the last `fill <- 0` and the first block begins; an `Err`
enters the fault state (42_generate_pipeline R152). -/
def Obligations.HeaderActions : Prop :=
  ∀ (s : State) (q : List SnkAnswer),
    (s.snk = .ok :: q →
      (s.phase = .hdr0 → step s = .next { s with
        snk := q, sink := s.sink ++ [0x72#8, 0x73#8, 0x01#8, 0x37#8], phase := .hdr1,
        trace := s.trace ++ [.snkWrite [0x72#8, 0x73#8, 0x01#8, 0x37#8] .ok] }) ∧
      (s.phase = .hdr1 → step s = .next { s with
        snk := q, sink := s.sink ++ be32 s.blockLen, phase := .hdr2,
        trace := s.trace ++ [.snkWrite (be32 s.blockLen) .ok] }) ∧
      (s.phase = .hdr2 → step s = .next { s with
        snk := q, sink := s.sink ++ be32 s.strongLen, phase := .fill, fill := 0#32,
        trace := s.trace ++ [.snkWrite (be32 s.strongLen) .ok] })) ∧
    ∀ e : Word, s.snk = .err e :: q → s.phase = .hdr0 ∨ s.phase = .hdr1 ∨ s.phase = .hdr2 →
      ∃ t, step s = .next t ∧ faultedBy s t .snkWriteError e 0x00000401#32 ∧ t.snk = q ∧ t.src = s.src ∧
        t.hashReady = s.hashReady

/-- The fill action on an answer of at least one byte: the bytes, at most the free space of BUF, are stored at
`BUF[fill .. fill+k)`, every other byte of BUF stays, and `phase` stays FILL (42_generate_pipeline R154). -/
def Obligations.FillStoresTheAnswer : Prop :=
  ∀ (s : State) (bytes : List Byte) (q : List SrcAnswer), s.phase = .fill → s.fill.toNat < s.blockLen.toNat →
    s.src = .data bytes :: q → bytes ≠ [] → s.buf.wf = true →
    ∃ (t : State) (got : List Byte), step s = .next t ∧
      got = bytes.take (s.blockLen.toNat - s.fill.toNat) ∧
      t.phase = .fill ∧ t.fill.toNat = s.fill.toNat + got.length ∧ t.fill.toNat ≤ s.blockLen.toNat ∧
      (∀ a, t.buf.read a =
        if s.fill.toNat ≤ a ∧ a < s.fill.toNat + got.length then got.getD (a - s.fill.toNat) 0#8 else s.buf.read a) ∧
      t.src = (if bytes.length ≤ got.length then q else .data (bytes.drop got.length) :: q) ∧
      t.trace = s.trace ++ [.srcRead (s.blockLen - s.fill) (.data got)] ∧
      t = { s with fill := t.fill, buf := t.buf, src := t.src, trace := t.trace }

/-- The fill action on a zero-length answer ends the stream: with `fill = 0` the run ends without a record, otherwise the
bytes gathered are the short last block (42_generate_pipeline R154). -/
def Obligations.FillAtEndOfStream : Prop :=
  ∀ (s : State) (q : List SrcAnswer), s.phase = .fill → s.fill.toNat < s.blockLen.toNat → s.src = .data [] :: q →
    (s.fill ≠ 0#32 → step s = .next { s with
      src := q, phase := .weak, trace := s.trace ++ [.srcRead (s.blockLen - s.fill) (.data [])] }) ∧
    (s.fill = 0#32 → s.status.fault = false → s.status.cause = .none →
      step s = .next { s with
        src := q, phase := .idle, status := { fault := false, done := true, cause := .none },
        rsp := s.rsp ++ [0x00000002#32],
        trace := s.trace ++ [.srcRead (s.blockLen - s.fill) (.data [])] })

/-- A read error enters the fault state with the source's value unmodified; the bytes gathered get no record
(60_exceptions R194). -/
def Obligations.SourceErrorEntersFault : Prop :=
  ∀ (s : State) (e : Word) (q : List SrcAnswer), s.phase = .fill → s.fill.toNat < s.blockLen.toNat →
    s.src = .err e :: q →
    ∃ t, step s = .next t ∧ faultedBy s t .srcReadError e 0x00000301#32 ∧ t.src = q ∧ t.snk = s.snk ∧
      t.hashReady = s.hashReady ∧ t.w = s.w ∧
      t.trace = s.trace ++ [.srcRead (s.blockLen - s.fill) (.err e)]

/-- With BUF full no transaction is made and the weak digest is next (42_generate_pipeline R155). -/
def Obligations.FullBlockGoesToWeak : Prop :=
  ∀ s : State, s.phase = .fill → s.fill = s.blockLen → step s = .next { s with phase := .weak }

/-- The weak action: W is the from-scratch window of `BUF[0 .. fill)` and its digest is written as
`s2[15:8], s2[7:0], s1[15:8], s1[7:0]`; an `Err` enters the fault state (42_generate_pipeline R156). -/
def Obligations.WeakActionWritesTheDigest : Prop :=
  ∀ (s : State) (q : List SnkAnswer), s.phase = .weak → s.fill.toNat ≤ s.blockLen.toNat →
    (s.snk = .ok :: q →
      ∃ (t : State) (block four : List Byte), step s = .next t ∧
        block.length = s.fill.toNat ∧ (∀ a, a < s.fill.toNat → block.getD a 0#8 = s.buf.read a) ∧
        represents t.w block ∧
        four = [t.w.s2.extractLsb' 8 8, t.w.s2.extractLsb' 0 8, t.w.s1.extractLsb' 8 8, t.w.s1.extractLsb' 0 8] ∧
        t = { s with
          phase := .strong, w := t.w, snk := q, sink := s.sink ++ four, trace := s.trace ++ [.snkWrite four .ok] }) ∧
    ∀ e : Word, s.snk = .err e :: q →
      ∃ t, step s = .next t ∧ faultedBy s t .snkWriteError e 0x00000401#32 ∧ t.snk = q ∧ t.src = s.src ∧
        t.hashReady = s.hashReady

/-- The strong action, once HASH answers, with `STRONG_LEN > 0` writes the first `STRONG_LEN` bytes of `H(BUF[0 .. fill))`; with
`STRONG_LEN = 0` it writes nothing; a short block is the last, a full one is followed by the next
(42_generate_pipeline R157, R158). That with `STRONG_LEN = 0` too HASH is asked and its answer taken (`hashReady` goes
from `n + 1` to `n`) is the model's choice (log 15: 93_implementation_defined U14 leaves the call open there). -/
def Obligations.StrongActionWritesTheHash : Prop :=
  ∀ (s t : State) (n : Nat), s.phase = .strong → s.fill.toNat ≤ s.blockLen.toNat → s.strongLen.toNat ≤ 32 →
    s.status.fault = false → s.status.cause = .none → s.hashReady = n + 1 →
    ((s.strongLen = 0#32 ∧ t = { s with hashReady := n }) ∨
      ∃ q, s.strongLen ≠ 0#32 ∧ s.snk = .ok :: q ∧
        t = { s with
          hashReady := n, snk := q, sink := s.sink ++ (Config.strongHash s.gathered).toList.take s.strongLen.toNat }) →
    ∃ u, step s = .next u ∧ u.sink = t.sink ∧ u.snk = t.snk ∧
      u = { t with
        phase := if s.fill.toNat < s.blockLen.toNat then .idle else .fill,
        fill := if s.fill.toNat < s.blockLen.toNat then s.fill else 0#32,
        status := if s.fill.toNat < s.blockLen.toNat then { fault := false, done := true, cause := .none }
          else s.status,
        rsp := if s.fill.toNat < s.blockLen.toNat then s.rsp ++ [0x00000002#32] else s.rsp,
        trace := u.trace }

/-- A write error in any writing action enters the fault state with the sink's value unmodified (60_exceptions R195, R196). -/
def Obligations.SinkErrorEntersFault : Prop :=
  ∀ (s : State) (e : Word) (q : List SnkAnswer), s.snk = .err e :: q →
    s.phase = .hdr0 ∨ s.phase = .hdr1 ∨ s.phase = .hdr2 ∨
      (s.phase = .weak ∧ s.fill.toNat ≤ s.blockLen.toNat) ∨
      (s.phase = .strong ∧ s.fill.toNat ≤ s.blockLen.toNat ∧ s.strongLen ≠ 0#32 ∧ s.hashReady ≠ 0) →
    ∃ t, step s = .next t ∧ faultedBy s t .snkWriteError e 0x00000401#32 ∧ t.snk = q ∧ t.src = s.src ∧
      (s.phase ≠ .weak → t.w = s.w) ∧ (s.phase ≠ .strong → t.hashReady = s.hashReady)

/-- An action that waits for an answer of SRC, SNK or HASH holds and changes nothing (60_exceptions R202, R211).
That the hash is waited for when `STRONG_LEN = 0` too is the model's choice (log 15). -/
def Obligations.WaitingActionHolds : Prop :=
  ∀ s : State,
    (s.src = [] → s.phase = .fill → s.fill.toNat < s.blockLen.toNat → step s = .next s) ∧
    (s.snk = [] → s.phase = .hdr0 ∨ s.phase = .hdr1 ∨ s.phase = .hdr2 → step s = .next s) ∧
    (s.snk = [] → s.phase = .weak → s.fill.toNat ≤ s.blockLen.toNat → step s = .next s) ∧
    (s.snk = [] → s.phase = .strong → s.fill.toNat ≤ s.blockLen.toNat → s.strongLen ≠ 0#32 → step s = .next s) ∧
    (s.hashReady = 0 → s.phase = .strong → s.fill.toNat ≤ s.blockLen.toNat → step s = .next s)

/-- A run neither reads commands nor touches R or the configuration (10_state R36, 41_config_commands R144,
42_generate_pipeline R160). -/
def Obligations.RunLeavesWindowAndConfiguration : Prop :=
  ∀ s t : State, s.phase ≠ .idle → step s = .next t →
    t.r = s.r ∧ t.blockLen = s.blockLen ∧ t.strongLen = s.strongLen ∧ t.taken = s.taken ∧ t.cmd = s.cmd

/-- Every step of a run waits for an answer that is not there of the port its action uses, moves `phase`, or takes at
least one byte (42_generate_pipeline R168). That a STRONG step waits for HASH when `STRONG_LEN = 0` too is the model's
choice (log 15). -/
def Obligations.RunStepsMakeProgress : Prop :=
  ∀ s t : State, s.phase.running = true → step s = .next t →
    (t = s ∧ awaitsAnswer s) ∨ t.phase ≠ s.phase ∨
      (s.phase = .fill ∧ t.phase = .fill ∧ s.fill.toNat < t.fill.toNat)

/-- A step pushes at most one response word, and only DIGEST, RDREG and GENERATE push: GENERATE at its end or at its fault
(20_memory R51). -/
def Obligations.ResponsesComeFromThreeCommands : Prop :=
  ∀ s t : State, step s = .next t →
    t.rsp = s.rsp ∨
    ∃ word, t.rsp = s.rsp ++ [word] ∧
      ((s.phase = .idle ∧ ∃ i ∈ responders, ∃ rest, decode (s.taken ++ s.cmd) = .command i rest) ∨
       (s.phase.running = true ∧ (t.phase = .idle ∨ t.phase = .fault)))

/-- The block only appends to the sink, unless an I/O error leaves the sink's contents unspecified, which is a fault
(20_memory R55, R56). That CONFIG_ERROR leaves them as they are is the model's choice (log 13). -/
def Obligations.SinkIsAppendOnly : Prop :=
  ∀ s t : State, step s = .next t →
    (∃ bytes, t.sink = s.sink ++ bytes) ∨
    (t.phase = .fault ∧ (t.status.cause = .srcReadError ∨ t.status.cause = .snkWriteError))

/-- Every read asks for 1 to `BLOCK_LEN` bytes and gets no more, no write is of zero bytes, the hash gets 1 to `BLOCK_LEN`
bytes, and a step makes at most one stream transaction (20_memory R52, R55, R57, R65). -/
def Obligations.PortTransactionsAreLegal : Prop :=
  ∀ s t : State, Inv s → step s = .next t →
    ∃ made : List Transaction, t.trace = s.trace ++ made ∧ (∀ x ∈ made, legalTransaction s.blockLen x) ∧
      (made.filter Transaction.onStream).length ≤ 1

/-- No step depends on W, nor on the bytes of BUF at and above `fill`: neither what they hold after reset nor what an
earlier run left in them can be seen (10_state R36, R37, R42). -/
def Obligations.StaleStateIsInvisible : Prop :=
  ∀ s t : State, s.buf.wf = true → t.buf.wf = true → sameButStale s t → outcomeSameButStale (step s) (step t)

/-- A GENERATE run in which no transaction answers `Err` appends exactly the signature of the bytes the source delivered
before its first zero-length answer, however it cut them into answers; it pushes `0x00000002`, takes that answer and no
later one, asks HASH once for each block, and leaves R and the configuration; that signature is `12 + m * (4 + SL)` bytes, and those bytes are the
whole input when the source is exhaustion-terminated (42_generate_pipeline R161, 20_memory R57, R65). That HASH is asked
once for each block when `STRONG_LEN = 0` too (`t.hashReady = hashRest`) is the model's choice (log 15:
93_implementation_defined U14 leaves the number of calls open there). -/
def Obligations.SuccessfulRunWritesTheSignature : Prop :=
  ∀ (s : State) (rest : List Byte) (chunks : List (List Byte)) (srcRest : List SrcAnswer) (snkRest : List SnkAnswer)
    (hashRest : Nat),
    Inv s → s.phase = .idle → s.taken ++ s.cmd = encode .generate ++ rest → legalConfig s.blockLen s.strongLen →
    (∀ c ∈ chunks, c ≠ []) → s.src = chunks.map SrcAnswer.data ++ .data [] :: srcRest →
    s.snk = List.replicate (writesOf s.blockLen s.strongLen chunks.flatten.length) .ok ++ snkRest →
    s.hashReady = blockCount s.blockLen.toNat chunks.flatten.length + hashRest →
    ∃ (n : Nat) (t : State), Sys2Proof.core.run n s = .next t ∧ completed t ∧
      t.sink = s.sink ++ signature s.blockLen s.strongLen chunks.flatten ∧
      t.rsp = s.rsp ++ [0x00000002#32] ∧ t.src = srcRest ∧ t.snk = snkRest ∧ t.hashReady = hashRest ∧ t.taken = [] ∧ t.cmd = rest ∧
      t.r = s.r ∧ t.blockLen = s.blockLen ∧ t.strongLen = s.strongLen ∧
      t.sink.length = s.sink.length + 12 +
        blockCount s.blockLen.toNat chunks.flatten.length * (4 + s.strongLen.toNat) ∧
      (srcExhaustionTerminated s.src → srcBytes s.src = chunks.flatten)

/-- The blocks of an input are its consecutive pieces, in order, each of 1 to `BLOCK_LEN` bytes and full but for the last
(20_memory R62). -/
def Obligations.BlocksPartitionTheInput : Prop :=
  ∀ (blockLen : Nat) (x : List Byte), 0 < blockLen →
    (blocksOf blockLen x).flatten = x ∧
    (∀ b ∈ blocksOf blockLen x, 1 ≤ b.length ∧ b.length ≤ blockLen) ∧
    (∀ k, k + 1 < blockCount blockLen x.length → (blockAt blockLen x k).length = blockLen)

/-- The signature is `12 + m * (4 + SL)` bytes and its records are counted by that length (42_generate_pipeline R161,
20_memory R62). -/
def Obligations.SignatureLength : Prop :=
  ∀ (blockLen strongLen : Word) (x : List Byte), strongLen.toNat ≤ 32 →
    (signature blockLen strongLen x).length =
      12 + blockCount blockLen.toNat x.length * (4 + strongLen.toNat) ∧
    ((signature blockLen strongLen x).length - 12) / (4 + strongLen.toNat) = blockCount blockLen.toNat x.length

/-- With the reset configuration the header is the twelve bytes the spec prints, and an empty input gives the header alone
(20_memory R60, 42_generate_pipeline R162). -/
def Obligations.DefaultHeaderBytes : Prop :=
  signatureHeader State.reset.blockLen State.reset.strongLen =
    [0x72#8, 0x73#8, 0x01#8, 0x37#8, 0x00#8, 0x00#8, 0x08#8, 0x00#8, 0x00#8, 0x00#8, 0x00#8, 0x20#8] ∧
  ∀ blockLen strongLen : Word,
    0 < blockLen.toNat → signature blockLen strongLen [] = signatureHeader blockLen strongLen

/-- Under the premise that the source is exhaustion-terminated, the bytes before its first zero-length answer are all it
will ever deliver (20_memory R54). -/
def Obligations.ExhaustedSourceDeliversTheWholeInput : Prop :=
  ∀ (q : List SrcAnswer) (chunks : List (List Byte)) (srcRest : List SrcAnswer),
    srcExhaustionTerminated q → (∀ c ∈ chunks, c ≠ []) → q = chunks.map SrcAnswer.data ++ .data [] :: srcRest →
    srcBytes q = chunks.flatten

/-! ### Reset -/

/-- `rst`, at any time: the block's registers take their reset values, CMD and RSP are emptied, the environment is left
as it is; nothing else leaves the fault state or abandons a run (70_reset_and_hazards R220, R221). That the sink's contents are
as before `rst` is the model's choice (log 13: R221 says it, 93 U1 leaves the sink open after a reset in a run). -/
def Obligations.RstResetsTheBlock : Prop :=
  ∀ s : State,
    (s.env .rst).r = Window.zero ∧ (s.env .rst).blockLen = 2048#32 ∧ (s.env .rst).strongLen = 32#32 ∧
    ((s.env .rst).csr .status) = 0#32 ∧ (s.env .rst).errinfo = 0#32 ∧ (s.env .rst).phase = .idle ∧
    (s.env .rst).fill = 0#32 ∧ (s.env .rst).taken = [] ∧ (s.env .rst).cmd = [] ∧ (s.env .rst).rsp = [] ∧
    (s.env .rst).faultOut = false ∧ (s.env .rst).causeOut = 0#4 ∧ (s.env .rst).errinfoOut = 0#32 ∧
    (s.env .rst).src = s.src ∧ (s.env .rst).snk = s.snk ∧ (s.env .rst).hashReady = s.hashReady ∧ (s.env .rst).sink = s.sink ∧
    (∀ a : EnvAction, a ≠ .rst → (s.env a).phase = s.phase) ∧ (s.phase = .fault → step s = .next s)

/-- The reset values the spec gives (10_state R42). -/
def Obligations.ResetValues : Prop :=
  State.reset.r = Window.zero ∧ State.reset.csr .magic = 0x72730137#32 ∧ State.reset.csr .blockLen = 2048#32 ∧
  State.reset.csr .strongLen = 32#32 ∧ State.reset.csr .status = 0#32 ∧ State.reset.csr .errinfo = 0#32 ∧
  State.reset.phase = .idle ∧ State.reset.fill = 0#32 ∧ State.reset.taken = [] ∧ State.reset.cmd = [] ∧
  State.reset.rsp = [] ∧ State.reset.faultOut = false ∧ State.reset.causeOut = 0#4 ∧
  State.reset.errinfoOut = 0#32
end

