-- ==== Sys2Proof/Laws/Decode.lean ====
section
/-! SUPPORT. The laws of the encoding: byte order, fields of the header, the inverse pairs of code and opcode, of number
and register, and decode by the three things a header can say. -/

namespace Sys2Proof

/-- The four bytes of a word make the word again. -/
@[simp] theorem wordOfBytes_be32 (v : Word) :
    wordOfBytes (v.extractLsb' 24 8) (v.extractLsb' 16 8) (v.extractLsb' 8 8) (v.extractLsb' 0 8) = v := by
  apply BitVec.eq_of_getLsbD_eq
  intro i hi
  simp only [wordOfBytes, BitVec.getLsbD_append, BitVec.getLsbD_extractLsb']
  split
  · simp [*]
  · split
    · rw [show 8 + (i - 8) = i by omega]; simp; omega
    · split
      · rw [show 16 + (i - 8 - 8) = i by omega]; simp; omega
      · rw [show 24 + (i - 8 - 8 - 8) = i by omega]; simp; omega

/-- A word made of four bytes has these bytes. -/
@[simp] theorem be32_wordOfBytes (b3 b2 b1 b0 : Byte) : be32 (wordOfBytes b3 b2 b1 b0) = [b3, b2, b1, b0] := by
  simp only [be32, wordOfBytes, List.cons.injEq, and_true]
  refine ⟨?_, ?_, ?_, ?_⟩ <;>
  · apply BitVec.eq_of_getLsbD_eq
    intro i hi
    simp only [BitVec.getLsbD_append, BitVec.getLsbD_extractLsb']
    simp [show i < 8 from hi, show ¬ 8 + i < 8 by omega, show ¬ 16 + i < 8 by omega, show ¬ 24 + i < 8 by omega,
      show 8 + i - 8 = i by omega, show ¬ 16 + i - 8 < 8 by omega, show ¬ 24 + i - 8 < 8 by omega,
      show 16 + i - 8 - 8 = i by omega, show ¬ 24 + i - 8 - 8 < 8 by omega,
      show 24 + i - 8 - 8 - 8 = i by omega]

@[simp] theorem be32_length (v : Word) : (be32 v).length = 4 := rfl

@[simp] theorem Header.bytes_length (h : Header) : h.bytes.length = 8 := rfl

/-- A well-formed command is one whose payload `LEN` can count. -/
theorem Instr.wellFormed_iff (i : Instr) : i.wellFormed = true ↔ i.payload.length < 4294967296 :=
  decide_eq_true_iff

/-- The 64-bit value has the header's fields (30_encoding R81). -/
@[simp] theorem headerOfBits_toBits (h : Header) : headerOfBits h.toBits = h := by
  obtain ⟨opc, a, b, z, imm⟩ := h
  simp only [headerOfBits, Header.toBits, Header.mk.injEq]
  refine ⟨?_, ?_, ?_, ?_, ?_⟩ <;>
  · apply BitVec.eq_of_getLsbD_eq
    intro i hi
    simp only [BitVec.getLsbD_append, BitVec.getLsbD_extractLsb', hi, decide_true, Bool.true_and]
    repeat' split
    all_goals first
      | omega
      | (congr 1; omega)

/-- The fields make the 64-bit value again (30_encoding R81). -/
@[simp] theorem toBits_headerOfBits (v : BitVec 64) : (headerOfBits v).toBits = v := by
  apply BitVec.eq_of_getLsbD_eq
  intro i hi
  simp only [headerOfBits, Header.toBits, BitVec.getLsbD_append, BitVec.getLsbD_extractLsb']
  repeat' split
  all_goals
    rw [decide_eq_true (by omega), Bool.true_and]
    congr 1; omega

/-- Masking a header masks its fields (30_encoding R84). -/
theorem Header.toBits_and (h m : Header) :
    h.toBits &&& m.toBits =
      Header.toBits { opc := h.opc &&& m.opc, a := h.a &&& m.a, b := h.b &&& m.b, z := h.z &&& m.z, imm := h.imm &&& m.imm } := by
  apply BitVec.eq_of_getLsbD_eq
  intro i hi
  simp only [Header.toBits, BitVec.getLsbD_append, BitVec.getLsbD_and]
  repeat' split
  all_goals rfl

/-- A header under a mask is a pattern exactly when each field is. -/
theorem Header.masked_iff (h m p : Header) :
    h.toBits &&& m.toBits = p.toBits ↔
      h.opc &&& m.opc = p.opc ∧ h.a &&& m.a = p.a ∧ h.b &&& m.b = p.b ∧ h.z &&& m.z = p.z ∧ h.imm &&& m.imm = p.imm := by
  rw [Header.toBits_and]
  constructor
  · intro e
    have := congrArg headerOfBits e
    rw [headerOfBits_toBits, headerOfBits_toBits] at this
    subst this
    simp
  · rintro ⟨h1, h2, h3, h4, h5⟩
    rw [h1, h2, h3, h4, h5]

/-- The eight bytes of a 64-bit value, most significant first, are its header's (30_encoding R80). -/
theorem headerOfBits_bytes (v : BitVec 64) :
    (List.range 8).map (fun k => v.extractLsb' (56 - 8 * k) 8) = (headerOfBits v).bytes := by
  have e : ∀ k, k + 8 ≤ 32 → (v.extractLsb' 0 32).extractLsb' k 8 = v.extractLsb' k 8 := by
    intro k hk
    apply BitVec.eq_of_getLsbD_eq
    intro i hi
    simp [hi]; omega
  simp [List.range, List.range.loop, Header.bytes, headerOfBits, be32, e]

/-- `header[63:32]` is the bytes `OPC, A, B, Z` (30_encoding R91). -/
theorem Header.info_eq (h : Header) : h.info = h.toBits.extractLsb' 32 32 := by
  apply BitVec.eq_of_getLsbD_eq
  intro i hi
  simp only [Header.info, wordOfBytes, Header.toBits, BitVec.getLsbD_append, BitVec.getLsbD_extractLsb', hi,
    decide_true, Bool.true_and]
  repeat' split
  all_goals first
    | omega
    | (congr 1; omega)

/-- An opcode's code names it. -/
@[simp] theorem opcodeOf_code (o : Opcode) : opcodeOf o.code = some o := by cases o <;> decide

/-- A byte that names an opcode is its code. -/
theorem code_of_opcodeOf {c : Byte} {o : Opcode} (h : opcodeOf c = some o) : c = o.code := by
  unfold opcodeOf at h
  repeat' split at h
  all_goals first
    | (cases h; assumption)
    | exact nomatch h

/-- A register's number names it. -/
@[simp] theorem csrOf_number (r : Csr) : csrOf r.number = some r := by cases r <;> decide

/-- A byte that names a register is its number. -/
theorem number_of_csrOf {c : Byte} {r : Csr} (h : csrOf c = some r) : c = r.number := by
  unfold csrOf at h
  repeat' split at h
  all_goals first
    | (cases h; assumption)
    | exact nomatch h

/-- What a legal header is: a known opcode, `Z` zero, the unused fields zero, and operands that exist. -/
theorem decodeHeader_legal {h : Header} {d : HeaderDecoded} (e : decodeHeader h = d)
    (legal : ∀ why, d ≠ .illegal why) :
    ∃ o, opcodeOf h.opc = some o ∧ h.z = 0#8 ∧ o.format.unusedZero h = true ∧ operandsOf o h = d := by
  unfold decodeHeader at e
  split at e
  · exact absurd e.symm (legal _)
  · split at e
    · split at e
      · exact ⟨_, by assumption, by assumption, by assumption, e⟩
      · exact absurd e.symm (legal _)
    · exact absurd e.symm (legal _)

/-- Decoding of a header's bytes and what follows, by what the header says (30_encoding R80). -/
theorem decode_bytes (h : Header) (rest : List Byte) :
    decode (h.bytes ++ rest) =
      match decodeHeader h with
      | .illegal why => .illegal why h.info rest
      | .command i => .command i rest
      | .updateHeader len =>
        if rest.length < len.toNat then .needPayload
        else .command (.update (rest.take len.toNat)) (rest.drop len.toNat) := by
  obtain ⟨opc, a, b, z, imm⟩ := h
  cases e : decodeHeader { opc := opc, a := a, b := b, z := z, imm := imm } <;>
    simp only [Header.bytes, be32, decode, Header.info, List.cons_append, List.nil_append, wordOfBytes_be32, e]

/-- Fewer than eight bytes are no header. -/
theorem decode_short (bytes : List Byte) (h : bytes.length < 8) : decode bytes = .needHeader := by
  match bytes, h with
  | [], _ => rfl
  | [_], _ => rfl
  | [_, _], _ => rfl
  | [_, _, _], _ => rfl
  | [_, _, _, _], _ => rfl
  | [_, _, _, _, _], _ => rfl
  | [_, _, _, _, _, _], _ => rfl
  | [_, _, _, _, _, _, _], _ => rfl
  | _ :: _ :: _ :: _ :: _ :: _ :: _ :: _ :: _, h => simp only [List.length_cons] at h; omega

/-- Eight bytes or more begin with a header's bytes. -/
theorem bytes_of_eight (bytes : List Byte) (h : 8 ≤ bytes.length) :
    ∃ (hd : Header) (rest : List Byte), bytes = hd.bytes ++ rest := by
  match bytes, h with
  | opc :: a :: b :: z :: i3 :: i2 :: i1 :: i0 :: rest, _ =>
    exact ⟨{ opc := opc, a := a, b := b, z := z, imm := wordOfBytes i3 i2 i1 i0 }, rest, by simp [Header.bytes]⟩

/-- `decode` on any bytes: too short, or a header and what follows it. -/
theorem decode_cases (bytes : List Byte) :
    (bytes.length < 8 ∧ decode bytes = .needHeader) ∨
      ∃ (h : Header) (rest : List Byte), bytes = h.bytes ++ rest ∧
        ((∃ why, decodeHeader h = .illegal why ∧ decode bytes = .illegal why h.info rest) ∨
         (∃ i, decodeHeader h = .command i ∧ decode bytes = .command i rest) ∨
         (∃ len, decodeHeader h = .updateHeader len ∧ rest.length < len.toNat ∧ decode bytes = .needPayload) ∨
         (∃ (len : Word) (payload more : List Byte), decodeHeader h = .updateHeader len ∧ payload.length = len.toNat ∧
           rest = payload ++ more ∧ decode bytes = .command (.update payload) more)) := by
  by_cases hl : bytes.length < 8
  · exact .inl ⟨hl, decode_short bytes hl⟩
  · obtain ⟨h, rest, rfl⟩ := bytes_of_eight bytes (by omega)
    refine .inr ⟨h, rest, rfl, ?_⟩
    rw [decode_bytes]
    cases hd : decodeHeader h with
    | illegal why => exact .inl ⟨why, rfl, rfl⟩
    | command i => exact .inr (.inl ⟨i, rfl, rfl⟩)
    | updateHeader len =>
      by_cases hr : rest.length < len.toNat
      · exact .inr (.inr (.inl ⟨len, rfl, hr, by simp [hr]⟩))
      · exact .inr (.inr (.inr ⟨len, rest.take len.toNat, rest.drop len.toNat, rfl, by simp; omega, by simp,
          by simp [hr]⟩))

/-- A command but UPDATE is decoded from its header alone; UPDATE's header says its length. -/
theorem decodeHeader_header (i : Instr) :
    decodeHeader i.header =
      match i with
      | .update payload => .updateHeader (BitVec.ofNat 32 payload.length)
      | _ => .command i := by
  cases i <;>
    simp [decodeHeader, Instr.header, Opcode.format, Format.unusedZero, operandsOf, rdregOf, wrregOf]

/-- A header that decodes to a whole command is that command's header. -/
theorem header_of_command {h : Header} {i : Instr} (e : decodeHeader h = .command i) :
    i.header = h ∧ i.payload = [] := by
  obtain ⟨o, ho, hz, hu, hd⟩ := decodeHeader_legal e (by simp)
  have hc := code_of_opcodeOf ho
  obtain ⟨opc, a, b, z, imm⟩ := h
  simp only at hz hc
  subst hz hc
  cases o <;> simp [operandsOf, Opcode.format, Format.unusedZero] at hd hu
  all_goals first
    | (subst hd; simp [Instr.header, Instr.payload, hu])
    | (cases hr : csrOf a with
       | none => simp [hr] at hd
       | some r =>
         have hn := number_of_csrOf hr
         subst hn
         cases r <;> simp [hr, rdregOf, wrregOf] at hd <;> subst hd <;>
           simp [Instr.header, Instr.payload, hu])

/-- A header that announces a payload is UPDATE's, with that length in `IMM`. -/
theorem header_of_updateHeader {h : Header} {len : Word} (e : decodeHeader h = .updateHeader len) :
    h = { opc := 0x02#8, a := 0#8, b := 0#8, z := 0#8, imm := len } := by
  obtain ⟨o, ho, hz, hu, hd⟩ := decodeHeader_legal e (by simp)
  have hc := code_of_opcodeOf ho
  obtain ⟨opc, a, b, z, imm⟩ := h
  simp only at hz hc
  subst hz hc
  cases o <;> simp [operandsOf, Opcode.format, Format.unusedZero] at hd hu
  · subst hd; simp [Opcode.code, hu]
  all_goals
    cases hr : csrOf a with
    | none => simp [hr] at hd
    | some r => cases r <;> simp [hr, rdregOf, wrregOf] at hd

end Sys2Proof
end

