-- ==== Sys2Proof/Laws/Memory.lean ====
section
/-! SUPPORT. The laws of BUF: read after write, what a write leaves alone, and that every operation keeps the canonical
form and the bound. -/

namespace Sys2Proof.Machine

@[simp] theorem Memory.read_nil (a : Nat) : Memory.read [] a = 0#8 := rfl

/-- A write changes the byte at its index and no other. -/
theorem Memory.read_write (m : Memory) (a c : Nat) (b : Byte) (h : m.wf = true) :
    (Memory.write m a b).read c = if c = a then b else m.read c := by
  induction m with
  | nil =>
    by_cases hb : b = 0#8
    · simp [Memory.write, hb]
    · simp [Memory.write, hb, Memory.read]
  | cons x m ih =>
    obtain ⟨i, d⟩ := x
    simp only [Memory.wf, Bool.and_eq_true] at h
    obtain ⟨⟨_, hall⟩, hwf⟩ := h
    have unlisted : ∀ k, k ≤ i → Memory.read m k = 0#8 := by
      intro k hk
      clear ih hwf
      induction m with
      | nil => rfl
      | cons y m ih2 =>
        obtain ⟨j, e⟩ := y
        simp only [List.all_cons, Bool.and_eq_true, decide_eq_true_eq] at hall
        have : k ≠ j := by omega
        simp only [Memory.read, this, if_false]
        exact ih2 hall.2
    simp only [Memory.write]
    by_cases h1 : a < i
    · by_cases hb : b = 0#8
      · simp only [h1, hb, if_true]
        by_cases hc : c = a
        · subst hc
          have : c ≠ i := by omega
          simp [Memory.read, this, unlisted c (by omega)]
        · simp [hc]
      · simp only [h1, hb, if_true, if_false]
        by_cases hc : c = a <;> simp [Memory.read, hc]
    · by_cases h2 : a = i
      · subst h2
        by_cases hb : b = 0#8
        · simp only [h1, hb, if_true, if_false]
          by_cases hc : c = a
          · subst hc
            simp [unlisted c (le_refl _)]
          · simp [Memory.read, hc]
        · simp only [h1, hb, if_true, if_false]
          by_cases hc : c = a <;> simp [Memory.read, hc]
      · simp only [h1, h2, if_false, Memory.read]
        by_cases hc : c = i
        · simp [hc]
          intro h; omega
        · simp [hc, ih hwf]

theorem Memory.write_all (m : Memory) (a : Nat) (b : Byte) (p : Host.Cell → Bool)
    (hm : m.all p = true) (ha : p (a, b) = true) : (Memory.write m a b).all p = true := by
  induction m with
  | nil => by_cases hb : b = 0#8 <;> simp_all [Memory.write]
  | cons x m ih =>
    obtain ⟨i, d⟩ := x
    simp only [List.all_cons, Bool.and_eq_true] at hm
    simp only [Memory.write]
    split
    · split <;> simp_all
    · split
      · split <;> simp_all
      · simp [hm.1, ih hm.2]

/-- A write keeps the canonical form. -/
theorem Memory.write_wf (m : Memory) (a : Nat) (b : Byte) (h : m.wf = true) : (Memory.write m a b).wf = true := by
  induction m with
  | nil => by_cases hb : b = 0#8 <;> simp [Memory.write, Memory.wf, hb]
  | cons x m ih =>
    obtain ⟨i, d⟩ := x
    have hw := h
    simp only [Memory.wf, Bool.and_eq_true] at h
    obtain ⟨⟨hd, hall⟩, hwf⟩ := h
    simp only [Memory.write]
    by_cases h1 : a < i
    · by_cases hb : b = 0#8
      · simpa [h1, hb] using hw
      · simp only [h1, hb, if_true, if_false, Memory.wf, List.all_cons, Bool.and_eq_true, decide_eq_true_eq]
        refine ⟨⟨by simp [hb], ⟨trivial, ?_⟩⟩, ⟨⟨hd, hall⟩, hwf⟩⟩
        rw [List.all_eq_true] at hall ⊢
        intro y hy
        have := hall y hy
        simp only [decide_eq_true_eq] at this ⊢
        omega
    · by_cases h2 : a = i
      · subst h2
        by_cases hb : b = 0#8
        · simpa [hb] using hwf
        · simp [hb, Memory.wf, hwf]
          simpa using hall
      · simp only [h1, h2, if_false, Memory.wf, Bool.and_eq_true]
        exact ⟨⟨hd, Memory.write_all m a b _ hall (by simp; omega)⟩, ih hwf⟩

/-- Storing a byte string keeps the canonical form. -/
theorem Memory.writeBytes_wf (m : Memory) (a : Nat) (bs : List Byte) (h : m.wf = true) :
    (Memory.writeBytes m a bs).wf = true := by
  induction bs generalizing m a with
  | nil => exact h
  | cons b bs ih => exact ih _ _ (Memory.write_wf m a b h)

/-- Storing a byte string below a bound keeps BUF below it. -/
theorem Memory.writeBytes_below (m : Memory) (a bound : Nat) (bs : List Byte) (h : m.below bound = true)
    (hb : a + bs.length ≤ bound) : (Memory.writeBytes m a bs).below bound = true := by
  induction bs generalizing m a with
  | nil => exact h
  | cons b bs ih =>
    simp only [List.length_cons] at hb
    exact ih _ _ (Memory.write_all m a b _ h (by simp; omega)) (by omega)

/-- Storing a byte string: its bytes stand at its indices, every other byte stays (20_memory R58). -/
theorem Memory.read_writeBytes (m : Memory) (a c : Nat) (bs : List Byte) (h : m.wf = true) :
    (Memory.writeBytes m a bs).read c =
      if a ≤ c ∧ c < a + bs.length then bs.getD (c - a) 0#8 else m.read c := by
  induction bs generalizing m a with
  | nil =>
    have : ¬(a ≤ c ∧ c < a + ([] : List Byte).length) := by simp
    rw [if_neg this]; rfl
  | cons b bs ih =>
    rw [Memory.writeBytes, ih _ _ (Memory.write_wf m a b h), Memory.read_write m a c b h]
    by_cases hc : c = a
    · subst hc
      simp
    · by_cases h1 : a + 1 ≤ c ∧ c < a + 1 + bs.length
      · have h2 : a ≤ c ∧ c < a + (b :: bs).length := by simp only [List.length_cons]; omega
        have h3 : c - a = (c - (a + 1)) + 1 := by omega
        rw [if_pos h1, if_pos h2, h3]; rfl
      · have h2 : ¬(a ≤ c ∧ c < a + (b :: bs).length) := by simp only [List.length_cons]; omega
        rw [if_neg h1, if_neg h2, if_neg hc]

@[simp] theorem Memory.readBytes_length (m : Memory) (a n : Nat) : (m.readBytes a n).length = n := by
  induction n generalizing a with
  | zero => rfl
  | succ n ih => simp [Memory.readBytes, ih]

/-- A byte of `BUF[a .. a+n)` is the byte at its index. -/
theorem Memory.readBytes_getD (m : Memory) (a n k : Nat) (h : k < n) :
    (m.readBytes a n).getD k 0#8 = m.read (a + k) := by
  induction n generalizing a k with
  | zero => omega
  | succ n ih =>
    cases k with
    | zero => rfl
    | succ k =>
      have := ih (a + 1) k (by omega)
      rw [Memory.readBytes, List.getD_cons_succ, this]
      congr 1; omega

/-- Memories that agree on the indices read give the same bytes. -/
theorem Memory.readBytes_congr (m m' : Memory) (a n : Nat) (h : ∀ k, a ≤ k → k < a + n → m.read k = m'.read k) :
    m.readBytes a n = m'.readBytes a n := by
  induction n generalizing a with
  | zero => rfl
  | succ n ih =>
    rw [Memory.readBytes, Memory.readBytes, h a (le_refl _) (by omega), ih (a + 1) (fun k h1 h2 => h k (by omega) (by omega))]

/-- `BUF[a .. a+i+j)` is `BUF[a .. a+i)` followed by `BUF[a+i .. a+i+j)`. -/
theorem Memory.readBytes_add (m : Memory) (a i j : Nat) :
    m.readBytes a (i + j) = m.readBytes a i ++ m.readBytes (a + i) j := by
  induction i generalizing a with
  | zero => simp [Memory.readBytes]
  | succ i ih =>
    rw [Nat.add_right_comm, Memory.readBytes, ih, Memory.readBytes, List.cons_append]
    congr 3; omega

/-- What was just stored is what is read back. -/
theorem Memory.readBytes_writeBytes_same (m : Memory) (a : Nat) (bs : List Byte) (h : m.wf = true) :
    (Memory.writeBytes m a bs).readBytes a bs.length = bs := by
  induction bs generalizing m a with
  | nil => rfl
  | cons b bs ih =>
    have hw := Memory.write_wf m a b h
    rw [Memory.writeBytes, List.length_cons, Memory.readBytes, ih _ _ hw, Memory.read_writeBytes _ _ _ _ hw,
      if_neg (by omega), Memory.read_write m a a b h, if_pos rfl]

/-- The bytes below the store stay. -/
theorem Memory.readBytes_writeBytes_before (m : Memory) (a c n : Nat) (bs : List Byte) (h : m.wf = true)
    (hn : c + n ≤ a) : (Memory.writeBytes m a bs).readBytes c n = m.readBytes c n :=
  Memory.readBytes_congr _ _ _ _ fun k _ h2 => by
    rw [Memory.read_writeBytes m a k bs h, if_neg (by omega)]

end Sys2Proof.Machine
end

