-- ==== Sys2Proof/Laws/State.lean ====
section
/-! SUPPORT. What each update does to each field, so that no proof unfolds a record update: the block's updates on the
block's fields, then the closed machine's and the environment's. -/

namespace Sys2Proof.Machine

/-! ### setR -/

@[simp] theorem Block.setR_r (b : Block) (v : Window) : (b.setR v).r = v := rfl
@[simp] theorem Block.setR_blockLen (b : Block) (v : Window) : (b.setR v).blockLen = b.blockLen := rfl
@[simp] theorem Block.setR_strongLen (b : Block) (v : Window) : (b.setR v).strongLen = b.strongLen := rfl
@[simp] theorem Block.setR_status (b : Block) (v : Window) : (b.setR v).status = b.status := rfl
@[simp] theorem Block.setR_errinfo (b : Block) (v : Window) : (b.setR v).errinfo = b.errinfo := rfl
@[simp] theorem Block.setR_phase (b : Block) (v : Window) : (b.setR v).phase = b.phase := rfl
@[simp] theorem Block.setR_w (b : Block) (v : Window) : (b.setR v).w = b.w := rfl
@[simp] theorem Block.setR_buf (b : Block) (v : Window) : (b.setR v).buf = b.buf := rfl
@[simp] theorem Block.setR_fill (b : Block) (v : Window) : (b.setR v).fill = b.fill := rfl
@[simp] theorem Block.setR_taken (b : Block) (v : Window) : (b.setR v).taken = b.taken := rfl
@[simp] theorem Block.setR_cmd (b : Block) (v : Window) : (b.setR v).cmd = b.cmd := rfl
@[simp] theorem Block.setR_rsp (b : Block) (v : Window) : (b.setR v).rsp = b.rsp := rfl

/-! ### setBlockLen -/

@[simp] theorem Block.setBlockLen_r (b : Block) (v : Word) : (b.setBlockLen v).r = b.r := rfl
@[simp] theorem Block.setBlockLen_blockLen (b : Block) (v : Word) : (b.setBlockLen v).blockLen = v := rfl
@[simp] theorem Block.setBlockLen_strongLen (b : Block) (v : Word) : (b.setBlockLen v).strongLen = b.strongLen := rfl
@[simp] theorem Block.setBlockLen_status (b : Block) (v : Word) : (b.setBlockLen v).status = b.status := rfl
@[simp] theorem Block.setBlockLen_errinfo (b : Block) (v : Word) : (b.setBlockLen v).errinfo = b.errinfo := rfl
@[simp] theorem Block.setBlockLen_phase (b : Block) (v : Word) : (b.setBlockLen v).phase = b.phase := rfl
@[simp] theorem Block.setBlockLen_w (b : Block) (v : Word) : (b.setBlockLen v).w = b.w := rfl
@[simp] theorem Block.setBlockLen_buf (b : Block) (v : Word) : (b.setBlockLen v).buf = b.buf := rfl
@[simp] theorem Block.setBlockLen_fill (b : Block) (v : Word) : (b.setBlockLen v).fill = b.fill := rfl
@[simp] theorem Block.setBlockLen_taken (b : Block) (v : Word) : (b.setBlockLen v).taken = b.taken := rfl
@[simp] theorem Block.setBlockLen_cmd (b : Block) (v : Word) : (b.setBlockLen v).cmd = b.cmd := rfl
@[simp] theorem Block.setBlockLen_rsp (b : Block) (v : Word) : (b.setBlockLen v).rsp = b.rsp := rfl

/-! ### setStrongLen -/

@[simp] theorem Block.setStrongLen_r (b : Block) (v : Word) : (b.setStrongLen v).r = b.r := rfl
@[simp] theorem Block.setStrongLen_blockLen (b : Block) (v : Word) : (b.setStrongLen v).blockLen = b.blockLen := rfl
@[simp] theorem Block.setStrongLen_strongLen (b : Block) (v : Word) : (b.setStrongLen v).strongLen = v := rfl
@[simp] theorem Block.setStrongLen_status (b : Block) (v : Word) : (b.setStrongLen v).status = b.status := rfl
@[simp] theorem Block.setStrongLen_errinfo (b : Block) (v : Word) : (b.setStrongLen v).errinfo = b.errinfo := rfl
@[simp] theorem Block.setStrongLen_phase (b : Block) (v : Word) : (b.setStrongLen v).phase = b.phase := rfl
@[simp] theorem Block.setStrongLen_w (b : Block) (v : Word) : (b.setStrongLen v).w = b.w := rfl
@[simp] theorem Block.setStrongLen_buf (b : Block) (v : Word) : (b.setStrongLen v).buf = b.buf := rfl
@[simp] theorem Block.setStrongLen_fill (b : Block) (v : Word) : (b.setStrongLen v).fill = b.fill := rfl
@[simp] theorem Block.setStrongLen_taken (b : Block) (v : Word) : (b.setStrongLen v).taken = b.taken := rfl
@[simp] theorem Block.setStrongLen_cmd (b : Block) (v : Word) : (b.setStrongLen v).cmd = b.cmd := rfl
@[simp] theorem Block.setStrongLen_rsp (b : Block) (v : Word) : (b.setStrongLen v).rsp = b.rsp := rfl

/-! ### setStatus -/

@[simp] theorem Block.setStatus_r (b : Block) (v : Status) : (b.setStatus v).r = b.r := rfl
@[simp] theorem Block.setStatus_blockLen (b : Block) (v : Status) : (b.setStatus v).blockLen = b.blockLen := rfl
@[simp] theorem Block.setStatus_strongLen (b : Block) (v : Status) : (b.setStatus v).strongLen = b.strongLen := rfl
@[simp] theorem Block.setStatus_status (b : Block) (v : Status) : (b.setStatus v).status = v := rfl
@[simp] theorem Block.setStatus_errinfo (b : Block) (v : Status) : (b.setStatus v).errinfo = b.errinfo := rfl
@[simp] theorem Block.setStatus_phase (b : Block) (v : Status) : (b.setStatus v).phase = b.phase := rfl
@[simp] theorem Block.setStatus_w (b : Block) (v : Status) : (b.setStatus v).w = b.w := rfl
@[simp] theorem Block.setStatus_buf (b : Block) (v : Status) : (b.setStatus v).buf = b.buf := rfl
@[simp] theorem Block.setStatus_fill (b : Block) (v : Status) : (b.setStatus v).fill = b.fill := rfl
@[simp] theorem Block.setStatus_taken (b : Block) (v : Status) : (b.setStatus v).taken = b.taken := rfl
@[simp] theorem Block.setStatus_cmd (b : Block) (v : Status) : (b.setStatus v).cmd = b.cmd := rfl
@[simp] theorem Block.setStatus_rsp (b : Block) (v : Status) : (b.setStatus v).rsp = b.rsp := rfl

/-! ### setErrinfo -/

@[simp] theorem Block.setErrinfo_r (b : Block) (v : Word) : (b.setErrinfo v).r = b.r := rfl
@[simp] theorem Block.setErrinfo_blockLen (b : Block) (v : Word) : (b.setErrinfo v).blockLen = b.blockLen := rfl
@[simp] theorem Block.setErrinfo_strongLen (b : Block) (v : Word) : (b.setErrinfo v).strongLen = b.strongLen := rfl
@[simp] theorem Block.setErrinfo_status (b : Block) (v : Word) : (b.setErrinfo v).status = b.status := rfl
@[simp] theorem Block.setErrinfo_errinfo (b : Block) (v : Word) : (b.setErrinfo v).errinfo = v := rfl
@[simp] theorem Block.setErrinfo_phase (b : Block) (v : Word) : (b.setErrinfo v).phase = b.phase := rfl
@[simp] theorem Block.setErrinfo_w (b : Block) (v : Word) : (b.setErrinfo v).w = b.w := rfl
@[simp] theorem Block.setErrinfo_buf (b : Block) (v : Word) : (b.setErrinfo v).buf = b.buf := rfl
@[simp] theorem Block.setErrinfo_fill (b : Block) (v : Word) : (b.setErrinfo v).fill = b.fill := rfl
@[simp] theorem Block.setErrinfo_taken (b : Block) (v : Word) : (b.setErrinfo v).taken = b.taken := rfl
@[simp] theorem Block.setErrinfo_cmd (b : Block) (v : Word) : (b.setErrinfo v).cmd = b.cmd := rfl
@[simp] theorem Block.setErrinfo_rsp (b : Block) (v : Word) : (b.setErrinfo v).rsp = b.rsp := rfl

/-! ### setPhase -/

@[simp] theorem Block.setPhase_r (b : Block) (v : Phase) : (b.setPhase v).r = b.r := rfl
@[simp] theorem Block.setPhase_blockLen (b : Block) (v : Phase) : (b.setPhase v).blockLen = b.blockLen := rfl
@[simp] theorem Block.setPhase_strongLen (b : Block) (v : Phase) : (b.setPhase v).strongLen = b.strongLen := rfl
@[simp] theorem Block.setPhase_status (b : Block) (v : Phase) : (b.setPhase v).status = b.status := rfl
@[simp] theorem Block.setPhase_errinfo (b : Block) (v : Phase) : (b.setPhase v).errinfo = b.errinfo := rfl
@[simp] theorem Block.setPhase_phase (b : Block) (v : Phase) : (b.setPhase v).phase = v := rfl
@[simp] theorem Block.setPhase_w (b : Block) (v : Phase) : (b.setPhase v).w = b.w := rfl
@[simp] theorem Block.setPhase_buf (b : Block) (v : Phase) : (b.setPhase v).buf = b.buf := rfl
@[simp] theorem Block.setPhase_fill (b : Block) (v : Phase) : (b.setPhase v).fill = b.fill := rfl
@[simp] theorem Block.setPhase_taken (b : Block) (v : Phase) : (b.setPhase v).taken = b.taken := rfl
@[simp] theorem Block.setPhase_cmd (b : Block) (v : Phase) : (b.setPhase v).cmd = b.cmd := rfl
@[simp] theorem Block.setPhase_rsp (b : Block) (v : Phase) : (b.setPhase v).rsp = b.rsp := rfl

/-! ### setW -/

@[simp] theorem Block.setW_r (b : Block) (v : Window) : (b.setW v).r = b.r := rfl
@[simp] theorem Block.setW_blockLen (b : Block) (v : Window) : (b.setW v).blockLen = b.blockLen := rfl
@[simp] theorem Block.setW_strongLen (b : Block) (v : Window) : (b.setW v).strongLen = b.strongLen := rfl
@[simp] theorem Block.setW_status (b : Block) (v : Window) : (b.setW v).status = b.status := rfl
@[simp] theorem Block.setW_errinfo (b : Block) (v : Window) : (b.setW v).errinfo = b.errinfo := rfl
@[simp] theorem Block.setW_phase (b : Block) (v : Window) : (b.setW v).phase = b.phase := rfl
@[simp] theorem Block.setW_w (b : Block) (v : Window) : (b.setW v).w = v := rfl
@[simp] theorem Block.setW_buf (b : Block) (v : Window) : (b.setW v).buf = b.buf := rfl
@[simp] theorem Block.setW_fill (b : Block) (v : Window) : (b.setW v).fill = b.fill := rfl
@[simp] theorem Block.setW_taken (b : Block) (v : Window) : (b.setW v).taken = b.taken := rfl
@[simp] theorem Block.setW_cmd (b : Block) (v : Window) : (b.setW v).cmd = b.cmd := rfl
@[simp] theorem Block.setW_rsp (b : Block) (v : Window) : (b.setW v).rsp = b.rsp := rfl

/-! ### setBuf -/

@[simp] theorem Block.setBuf_r (b : Block) (v : Memory) : (b.setBuf v).r = b.r := rfl
@[simp] theorem Block.setBuf_blockLen (b : Block) (v : Memory) : (b.setBuf v).blockLen = b.blockLen := rfl
@[simp] theorem Block.setBuf_strongLen (b : Block) (v : Memory) : (b.setBuf v).strongLen = b.strongLen := rfl
@[simp] theorem Block.setBuf_status (b : Block) (v : Memory) : (b.setBuf v).status = b.status := rfl
@[simp] theorem Block.setBuf_errinfo (b : Block) (v : Memory) : (b.setBuf v).errinfo = b.errinfo := rfl
@[simp] theorem Block.setBuf_phase (b : Block) (v : Memory) : (b.setBuf v).phase = b.phase := rfl
@[simp] theorem Block.setBuf_w (b : Block) (v : Memory) : (b.setBuf v).w = b.w := rfl
@[simp] theorem Block.setBuf_buf (b : Block) (v : Memory) : (b.setBuf v).buf = v := rfl
@[simp] theorem Block.setBuf_fill (b : Block) (v : Memory) : (b.setBuf v).fill = b.fill := rfl
@[simp] theorem Block.setBuf_taken (b : Block) (v : Memory) : (b.setBuf v).taken = b.taken := rfl
@[simp] theorem Block.setBuf_cmd (b : Block) (v : Memory) : (b.setBuf v).cmd = b.cmd := rfl
@[simp] theorem Block.setBuf_rsp (b : Block) (v : Memory) : (b.setBuf v).rsp = b.rsp := rfl

/-! ### setFill -/

@[simp] theorem Block.setFill_r (b : Block) (v : Word) : (b.setFill v).r = b.r := rfl
@[simp] theorem Block.setFill_blockLen (b : Block) (v : Word) : (b.setFill v).blockLen = b.blockLen := rfl
@[simp] theorem Block.setFill_strongLen (b : Block) (v : Word) : (b.setFill v).strongLen = b.strongLen := rfl
@[simp] theorem Block.setFill_status (b : Block) (v : Word) : (b.setFill v).status = b.status := rfl
@[simp] theorem Block.setFill_errinfo (b : Block) (v : Word) : (b.setFill v).errinfo = b.errinfo := rfl
@[simp] theorem Block.setFill_phase (b : Block) (v : Word) : (b.setFill v).phase = b.phase := rfl
@[simp] theorem Block.setFill_w (b : Block) (v : Word) : (b.setFill v).w = b.w := rfl
@[simp] theorem Block.setFill_buf (b : Block) (v : Word) : (b.setFill v).buf = b.buf := rfl
@[simp] theorem Block.setFill_fill (b : Block) (v : Word) : (b.setFill v).fill = v := rfl
@[simp] theorem Block.setFill_taken (b : Block) (v : Word) : (b.setFill v).taken = b.taken := rfl
@[simp] theorem Block.setFill_cmd (b : Block) (v : Word) : (b.setFill v).cmd = b.cmd := rfl
@[simp] theorem Block.setFill_rsp (b : Block) (v : Word) : (b.setFill v).rsp = b.rsp := rfl

/-! ### setCmd -/

@[simp] theorem Block.setCmd_r (b : Block) (t c : List Byte) : (b.setCmd t c).r = b.r := rfl
@[simp] theorem Block.setCmd_blockLen (b : Block) (t c : List Byte) : (b.setCmd t c).blockLen = b.blockLen := rfl
@[simp] theorem Block.setCmd_strongLen (b : Block) (t c : List Byte) : (b.setCmd t c).strongLen = b.strongLen := rfl
@[simp] theorem Block.setCmd_status (b : Block) (t c : List Byte) : (b.setCmd t c).status = b.status := rfl
@[simp] theorem Block.setCmd_errinfo (b : Block) (t c : List Byte) : (b.setCmd t c).errinfo = b.errinfo := rfl
@[simp] theorem Block.setCmd_phase (b : Block) (t c : List Byte) : (b.setCmd t c).phase = b.phase := rfl
@[simp] theorem Block.setCmd_w (b : Block) (t c : List Byte) : (b.setCmd t c).w = b.w := rfl
@[simp] theorem Block.setCmd_buf (b : Block) (t c : List Byte) : (b.setCmd t c).buf = b.buf := rfl
@[simp] theorem Block.setCmd_fill (b : Block) (t c : List Byte) : (b.setCmd t c).fill = b.fill := rfl
@[simp] theorem Block.setCmd_taken (b : Block) (t c : List Byte) : (b.setCmd t c).taken = t := rfl
@[simp] theorem Block.setCmd_cmd (b : Block) (t c : List Byte) : (b.setCmd t c).cmd = c := rfl
@[simp] theorem Block.setCmd_rsp (b : Block) (t c : List Byte) : (b.setCmd t c).rsp = b.rsp := rfl

/-! ### rspPush -/

@[simp] theorem Block.rspPush_r (b : Block) (v : Word) : (b.rspPush v).r = b.r := rfl
@[simp] theorem Block.rspPush_blockLen (b : Block) (v : Word) : (b.rspPush v).blockLen = b.blockLen := rfl
@[simp] theorem Block.rspPush_strongLen (b : Block) (v : Word) : (b.rspPush v).strongLen = b.strongLen := rfl
@[simp] theorem Block.rspPush_status (b : Block) (v : Word) : (b.rspPush v).status = b.status := rfl
@[simp] theorem Block.rspPush_errinfo (b : Block) (v : Word) : (b.rspPush v).errinfo = b.errinfo := rfl
@[simp] theorem Block.rspPush_phase (b : Block) (v : Word) : (b.rspPush v).phase = b.phase := rfl
@[simp] theorem Block.rspPush_w (b : Block) (v : Word) : (b.rspPush v).w = b.w := rfl
@[simp] theorem Block.rspPush_buf (b : Block) (v : Word) : (b.rspPush v).buf = b.buf := rfl
@[simp] theorem Block.rspPush_fill (b : Block) (v : Word) : (b.rspPush v).fill = b.fill := rfl
@[simp] theorem Block.rspPush_taken (b : Block) (v : Word) : (b.rspPush v).taken = b.taken := rfl
@[simp] theorem Block.rspPush_cmd (b : Block) (v : Word) : (b.rspPush v).cmd = b.cmd := rfl
@[simp] theorem Block.rspPush_rsp (b : Block) (v : Word) : (b.rspPush v).rsp = b.rsp ++ [v] := rfl

/-! ### startRun -/

@[simp] theorem Block.startRun_r (b : Block) : (b.startRun).r = b.r := rfl
@[simp] theorem Block.startRun_blockLen (b : Block) : (b.startRun).blockLen = b.blockLen := rfl
@[simp] theorem Block.startRun_strongLen (b : Block) : (b.startRun).strongLen = b.strongLen := rfl
@[simp] theorem Block.startRun_status (b : Block) : (b.startRun).status = { b.status with done := false } := rfl
@[simp] theorem Block.startRun_errinfo (b : Block) : (b.startRun).errinfo = b.errinfo := rfl
@[simp] theorem Block.startRun_phase (b : Block) : (b.startRun).phase = .hdr0 := rfl
@[simp] theorem Block.startRun_w (b : Block) : (b.startRun).w = b.w := rfl
@[simp] theorem Block.startRun_buf (b : Block) : (b.startRun).buf = b.buf := rfl
@[simp] theorem Block.startRun_fill (b : Block) : (b.startRun).fill = b.fill := rfl
@[simp] theorem Block.startRun_taken (b : Block) : (b.startRun).taken = b.taken := rfl
@[simp] theorem Block.startRun_cmd (b : Block) : (b.startRun).cmd = b.cmd := rfl
@[simp] theorem Block.startRun_rsp (b : Block) : (b.startRun).rsp = b.rsp := rfl

/-! ### startBlock -/

@[simp] theorem Block.startBlock_r (b : Block) : (b.startBlock).r = b.r := rfl
@[simp] theorem Block.startBlock_blockLen (b : Block) : (b.startBlock).blockLen = b.blockLen := rfl
@[simp] theorem Block.startBlock_strongLen (b : Block) : (b.startBlock).strongLen = b.strongLen := rfl
@[simp] theorem Block.startBlock_status (b : Block) : (b.startBlock).status = b.status := rfl
@[simp] theorem Block.startBlock_errinfo (b : Block) : (b.startBlock).errinfo = b.errinfo := rfl
@[simp] theorem Block.startBlock_phase (b : Block) : (b.startBlock).phase = .fill := rfl
@[simp] theorem Block.startBlock_w (b : Block) : (b.startBlock).w = b.w := rfl
@[simp] theorem Block.startBlock_buf (b : Block) : (b.startBlock).buf = b.buf := rfl
@[simp] theorem Block.startBlock_fill (b : Block) : (b.startBlock).fill = 0#32 := rfl
@[simp] theorem Block.startBlock_taken (b : Block) : (b.startBlock).taken = b.taken := rfl
@[simp] theorem Block.startBlock_cmd (b : Block) : (b.startBlock).cmd = b.cmd := rfl
@[simp] theorem Block.startBlock_rsp (b : Block) : (b.startBlock).rsp = b.rsp := rfl

/-! ### storeBytes -/

@[simp] theorem Block.storeBytes_r (b : Block) (bs : List Byte) : (b.storeBytes bs).r = b.r := rfl
@[simp] theorem Block.storeBytes_blockLen (b : Block) (bs : List Byte) :
    (b.storeBytes bs).blockLen = b.blockLen := rfl
@[simp] theorem Block.storeBytes_strongLen (b : Block) (bs : List Byte) :
    (b.storeBytes bs).strongLen = b.strongLen := rfl
@[simp] theorem Block.storeBytes_status (b : Block) (bs : List Byte) : (b.storeBytes bs).status = b.status := rfl
@[simp] theorem Block.storeBytes_errinfo (b : Block) (bs : List Byte) : (b.storeBytes bs).errinfo = b.errinfo := rfl
@[simp] theorem Block.storeBytes_phase (b : Block) (bs : List Byte) : (b.storeBytes bs).phase = b.phase := rfl
@[simp] theorem Block.storeBytes_w (b : Block) (bs : List Byte) : (b.storeBytes bs).w = b.w := rfl
@[simp] theorem Block.storeBytes_buf (b : Block) (bs : List Byte) :
    (b.storeBytes bs).buf = b.buf.writeBytes b.fill.toNat bs := rfl
@[simp] theorem Block.storeBytes_fill (b : Block) (bs : List Byte) :
    (b.storeBytes bs).fill = b.fill + BitVec.ofNat 32 bs.length := rfl
@[simp] theorem Block.storeBytes_taken (b : Block) (bs : List Byte) : (b.storeBytes bs).taken = b.taken := rfl
@[simp] theorem Block.storeBytes_cmd (b : Block) (bs : List Byte) : (b.storeBytes bs).cmd = b.cmd := rfl
@[simp] theorem Block.storeBytes_rsp (b : Block) (bs : List Byte) : (b.storeBytes bs).rsp = b.rsp := rfl

/-! ### endRun -/

@[simp] theorem Block.endRun_r (b : Block) : (b.endRun).r = b.r := rfl
@[simp] theorem Block.endRun_blockLen (b : Block) : (b.endRun).blockLen = b.blockLen := rfl
@[simp] theorem Block.endRun_strongLen (b : Block) : (b.endRun).strongLen = b.strongLen := rfl
@[simp] theorem Block.endRun_status (b : Block) : (b.endRun).status = { b.status with done := true } := rfl
@[simp] theorem Block.endRun_errinfo (b : Block) : (b.endRun).errinfo = b.errinfo := rfl
@[simp] theorem Block.endRun_phase (b : Block) : (b.endRun).phase = .idle := rfl
@[simp] theorem Block.endRun_w (b : Block) : (b.endRun).w = b.w := rfl
@[simp] theorem Block.endRun_buf (b : Block) : (b.endRun).buf = b.buf := rfl
@[simp] theorem Block.endRun_fill (b : Block) : (b.endRun).fill = b.fill := rfl
@[simp] theorem Block.endRun_taken (b : Block) : (b.endRun).taken = b.taken := rfl
@[simp] theorem Block.endRun_cmd (b : Block) : (b.endRun).cmd = b.cmd := rfl
@[simp] theorem Block.endRun_rsp (b : Block) :
    (b.endRun).rsp = b.rsp ++ [Status.word { b.status with done := true }] := rfl

/-! ### raise -/

@[simp] theorem Block.raise_r (b : Block) (c : Cause) (i : Word) :
    (b.raise c i).r = b.r := by
  cases c <;> rfl
@[simp] theorem Block.raise_blockLen (b : Block) (c : Cause) (i : Word) :
    (b.raise c i).blockLen = b.blockLen := by
  cases c <;> rfl
@[simp] theorem Block.raise_strongLen (b : Block) (c : Cause) (i : Word) :
    (b.raise c i).strongLen = b.strongLen := by
  cases c <;> rfl
@[simp] theorem Block.raise_status (b : Block) (c : Cause) (i : Word) :
    (b.raise c i).status = { fault := true, done := false, cause := c } := by
  cases c <;> rfl
@[simp] theorem Block.raise_errinfo (b : Block) (c : Cause) (i : Word) :
    (b.raise c i).errinfo = i := by
  cases c <;> rfl
@[simp] theorem Block.raise_phase (b : Block) (c : Cause) (i : Word) :
    (b.raise c i).phase = .fault := by
  cases c <;> rfl
@[simp] theorem Block.raise_w (b : Block) (c : Cause) (i : Word) :
    (b.raise c i).w = b.w := by
  cases c <;> rfl
@[simp] theorem Block.raise_buf (b : Block) (c : Cause) (i : Word) :
    (b.raise c i).buf = b.buf := by
  cases c <;> rfl
@[simp] theorem Block.raise_fill (b : Block) (c : Cause) (i : Word) :
    (b.raise c i).fill = b.fill := by
  cases c <;> rfl
@[simp] theorem Block.raise_taken (b : Block) (c : Cause) (i : Word) :
    (b.raise c i).taken = b.taken := by
  cases c <;> rfl
@[simp] theorem Block.raise_cmd (b : Block) (c : Cause) (i : Word) :
    (b.raise c i).cmd = b.cmd := by
  cases c <;> rfl
@[simp] theorem Block.raise_rsp (b : Block) (c : Cause) (i : Word) :
    (b.raise c i).rsp = if c.ofGenerate then b.rsp ++ [Status.word { fault := true, done := false, cause := c }] else b.rsp := by
  cases c <;> rfl

/-! ### The closed machine: withBlock, settle, rst -/

@[simp] theorem State.withBlock_toBlock (s : State) (b : Block) : (s.withBlock b).toBlock = b := rfl
@[simp] theorem State.withBlock_toEnvironment (s : State) (b : Block) :
    (s.withBlock b).toEnvironment = s.toEnvironment := rfl
@[simp] theorem State.settle_toBlock (s : State) (m : Moved) : (s.settle m).toBlock = m.block := rfl
@[simp] theorem State.settle_toEnvironment (s : State) (m : Moved) :
    (s.settle m).toEnvironment = m.made.foldl Environment.serve s.toEnvironment := rfl
@[simp] theorem State.rst_toBlock (s : State) : s.rst.toBlock = State.reset.toBlock := rfl
@[simp] theorem State.rst_toEnvironment (s : State) : s.rst.toEnvironment = s.toEnvironment := rfl
@[simp] theorem State.settle_holds (s : State) : s.settle s.toBlock.holds = s := rfl
@[simp] theorem State.settle_nothing (s : State) (b : Block) : s.settle { block := b, made := [] } = s.withBlock b := rfl
@[simp] theorem Block.holds_block (b : Block) : b.holds.block = b := rfl
@[simp] theorem Block.holds_made (b : Block) : b.holds.made = [] := rfl

/-! ### serve: what each kind of transaction does to each piece of the environment -/

@[simp] theorem Environment.serve_srcRead_data_src (e : Environment) (m : Word) (bs : List Byte) :
    (e.serve (.srcRead m (.data bs))).src = srcLeft m.toNat e.src := rfl
@[simp] theorem Environment.serve_srcRead_data_snk (e : Environment) (m : Word) (bs : List Byte) :
    (e.serve (.srcRead m (.data bs))).snk = e.snk := rfl
@[simp] theorem Environment.serve_srcRead_data_hashReady (e : Environment) (m : Word) (bs : List Byte) :
    (e.serve (.srcRead m (.data bs))).hashReady = e.hashReady := rfl
@[simp] theorem Environment.serve_srcRead_data_sink (e : Environment) (m : Word) (bs : List Byte) :
    (e.serve (.srcRead m (.data bs))).sink = e.sink := rfl
@[simp] theorem Environment.serve_srcRead_data_trace (e : Environment) (m : Word) (bs : List Byte) :
    (e.serve (.srcRead m (.data bs))).trace = e.trace ++ [.srcRead m (.data bs)] := rfl
@[simp] theorem Environment.serve_srcRead_data_sinkDraws (e : Environment) (m : Word) (bs : List Byte) :
    (e.serve (.srcRead m (.data bs))).sinkDraws = e.sinkDraws := rfl

@[simp] theorem Environment.serve_srcRead_err_src (e : Environment) (m x : Word) :
    (e.serve (.srcRead m (.err x))).src = e.src.tail := rfl
@[simp] theorem Environment.serve_srcRead_err_snk (e : Environment) (m x : Word) :
    (e.serve (.srcRead m (.err x))).snk = e.snk := rfl
@[simp] theorem Environment.serve_srcRead_err_hashReady (e : Environment) (m x : Word) :
    (e.serve (.srcRead m (.err x))).hashReady = e.hashReady := rfl
@[simp] theorem Environment.serve_srcRead_err_sink (e : Environment) (m x : Word) :
    (e.serve (.srcRead m (.err x))).sink = Config.sinkAfterError e.sinkDraws := rfl
@[simp] theorem Environment.serve_srcRead_err_trace (e : Environment) (m x : Word) :
    (e.serve (.srcRead m (.err x))).trace = e.trace ++ [.srcRead m (.err x)] := rfl
@[simp] theorem Environment.serve_srcRead_err_sinkDraws (e : Environment) (m x : Word) :
    (e.serve (.srcRead m (.err x))).sinkDraws = e.sinkDraws + 1 := rfl

@[simp] theorem Environment.serve_snkWrite_ok_src (e : Environment) (bs : List Byte) :
    (e.serve (.snkWrite bs .ok)).src = e.src := rfl
@[simp] theorem Environment.serve_snkWrite_ok_snk (e : Environment) (bs : List Byte) :
    (e.serve (.snkWrite bs .ok)).snk = e.snk.tail := rfl
@[simp] theorem Environment.serve_snkWrite_ok_hashReady (e : Environment) (bs : List Byte) :
    (e.serve (.snkWrite bs .ok)).hashReady = e.hashReady := rfl
@[simp] theorem Environment.serve_snkWrite_ok_sink (e : Environment) (bs : List Byte) :
    (e.serve (.snkWrite bs .ok)).sink = e.sink ++ bs := rfl
@[simp] theorem Environment.serve_snkWrite_ok_trace (e : Environment) (bs : List Byte) :
    (e.serve (.snkWrite bs .ok)).trace = e.trace ++ [.snkWrite bs .ok] := rfl
@[simp] theorem Environment.serve_snkWrite_ok_sinkDraws (e : Environment) (bs : List Byte) :
    (e.serve (.snkWrite bs .ok)).sinkDraws = e.sinkDraws := rfl

@[simp] theorem Environment.serve_snkWrite_err_src (e : Environment) (bs : List Byte) (x : Word) :
    (e.serve (.snkWrite bs (.err x))).src = e.src := rfl
@[simp] theorem Environment.serve_snkWrite_err_snk (e : Environment) (bs : List Byte) (x : Word) :
    (e.serve (.snkWrite bs (.err x))).snk = e.snk.tail := rfl
@[simp] theorem Environment.serve_snkWrite_err_hashReady (e : Environment) (bs : List Byte) (x : Word) :
    (e.serve (.snkWrite bs (.err x))).hashReady = e.hashReady := rfl
@[simp] theorem Environment.serve_snkWrite_err_sink (e : Environment) (bs : List Byte) (x : Word) :
    (e.serve (.snkWrite bs (.err x))).sink = Config.sinkAfterError e.sinkDraws := rfl
@[simp] theorem Environment.serve_snkWrite_err_trace (e : Environment) (bs : List Byte) (x : Word) :
    (e.serve (.snkWrite bs (.err x))).trace = e.trace ++ [.snkWrite bs (.err x)] := rfl
@[simp] theorem Environment.serve_snkWrite_err_sinkDraws (e : Environment) (bs : List Byte) (x : Word) :
    (e.serve (.snkWrite bs (.err x))).sinkDraws = e.sinkDraws + 1 := rfl

@[simp] theorem Environment.serve_hash_src (e : Environment) (bs : List Byte) :
    (e.serve (.hash bs)).src = e.src := rfl
@[simp] theorem Environment.serve_hash_snk (e : Environment) (bs : List Byte) :
    (e.serve (.hash bs)).snk = e.snk := rfl
@[simp] theorem Environment.serve_hash_hashReady (e : Environment) (bs : List Byte) :
    (e.serve (.hash bs)).hashReady = e.hashReady - 1 := rfl
@[simp] theorem Environment.serve_hash_sink (e : Environment) (bs : List Byte) :
    (e.serve (.hash bs)).sink = e.sink := rfl
@[simp] theorem Environment.serve_hash_trace (e : Environment) (bs : List Byte) :
    (e.serve (.hash bs)).trace = e.trace ++ [.hash bs] := rfl
@[simp] theorem Environment.serve_hash_sinkDraws (e : Environment) (bs : List Byte) :
    (e.serve (.hash bs)).sinkDraws = e.sinkDraws := rfl

end Sys2Proof.Machine
end

