-- ==== Sys2Proof/Laws/Ops.lean ====
section
/-! SUPPORT. One lemma for each shared operation that says all it can do: the STATUS words, the configuration check, the
block being assembled, fetching, fault entry, and a read, a write and a hash as the closed machine sees them. -/

namespace Sys2Proof.Machine

/-- `0x00000002`: the response of a successful run (42_generate_pipeline R159). -/
theorem Status.word_done : Status.word { fault := false, done := true, cause := .none } = 0x00000002#32 := by decide

/-- The bits of STATUS (10_state R33). -/
theorem Status.word_bits (st : Status) :
    st.word.getLsbD 0 = st.fault ∧ st.word.getLsbD 1 = st.done ∧ st.word.extractLsb' 2 6 = 0#6 ∧
      st.word.extractLsb' 8 4 = st.cause.code ∧ st.word.extractLsb' 12 20 = 0#20 := by
  obtain ⟨f, d, c⟩ := st
  cases f <;> cases d <;> cases c <;> decide

/-- The configuration check passes exactly on a legal configuration (42_generate_pipeline R151). -/
theorem configMask_eq_zero_iff (blockLen strongLen : Word) :
    configMask blockLen strongLen = 0#32 ↔ legalConfig blockLen strongLen := by
  unfold configMask legalConfig
  have hz : (blockLen == 0#32) = decide (blockLen.toNat = 0) := by
    rw [Bool.eq_iff_iff]; simp [BitVec.toNat_eq]
  rw [hz]
  by_cases h1 : blockLen.toNat = 0 <;> by_cases h2 : Config.hashLen < strongLen.toNat <;>
    by_cases h3 : Config.bufCap < blockLen.toNat <;> simp only [h1, h2, h3, decide_true, decide_false] <;>
    simp only [Config.hashLen] at h2
  all_goals first
    | (constructor
       · intro e; exact absurd e (by decide)
       · rintro ⟨_, _, _⟩; omega)
    | (constructor
       · intro _; exact ⟨by omega, by omega, by omega⟩
       · intro _; decide)

@[simp] theorem Block.gathered_length (b : Block) : b.gathered.length = b.fill.toNat := Memory.readBytes_length _ _ _

/-- `BUF_CAP` is at least 1. -/
theorem bufCap_pos : 1 ≤ Config.bufCap := Nat.succ_le_succ (Nat.zero_le _)

/-- `fetch` on an idle block's bytes: hold, an illegal header, or a whole command (20_memory R50). -/
theorem fetch_cases (b : Block) :
    (decode (b.taken ++ b.cmd) = .needHeader ∧ fetch b = .hold b) ∨
    (decode (b.taken ++ b.cmd) = .needPayload ∧
      fetch b = .hold (b.setCmd ((b.taken ++ b.cmd).take 8) ((b.taken ++ b.cmd).drop 8))) ∨
    (∃ why info rest, decode (b.taken ++ b.cmd) = .illegal why info rest ∧
      fetch b = .illegal info (b.setCmd [] rest)) ∨
    (∃ i rest, decode (b.taken ++ b.cmd) = .command i rest ∧ fetch b = .command i (b.setCmd [] rest)) := by
  unfold fetch
  cases decode (b.taken ++ b.cmd) with
  | needHeader => exact .inl ⟨rfl, rfl⟩
  | needPayload => exact .inr (.inl ⟨rfl, rfl⟩)
  | illegal why info rest => exact .inr (.inr (.inl ⟨why, info, rest, rfl, rfl⟩))
  | command i rest => exact .inr (.inr (.inr ⟨i, rest, rfl, rfl⟩))

/-- The answers the environment gives now, by what it has ready. -/
theorem Environment.answers_snk (e : Environment) : e.answers.snk = e.snk.head? := rfl

theorem Environment.answers_src (e : Environment) : e.answers.src = e.src.head? := rfl

theorem Environment.answers_hash (e : Environment) : e.answers.hash = true ↔ e.hashReady ≠ 0 := by
  simp [Environment.answers]

/-- The closed machine after a write that failed: the block enters the fault state, the answer is spent, the sink's
contents are lost (60_exceptions R195, 20_memory R56). -/
def State.writeFailed (s : State) (q : List SnkAnswer) (bytes : List Byte) (e : Word) : State :=
  { s with
    toBlock := s.toBlock.raise .snkWriteError e, snk := q, trace := s.trace ++ [.snkWrite bytes (.err e)],
    sink := Config.sinkAfterError s.sinkDraws, sinkDraws := s.sinkDraws + 1 }

/-- All an action that is one write can do: hold, go on, or enter the fault state (20_memory R55, R56; 60_exceptions
R195). -/
theorem settle_writeThen_cases (s : State) (bytes : List Byte) (k : Block → Block) :
    (s.snk = [] ∧ s.settle (writeThen s.answers s.toBlock bytes k) = s) ∨
    (∃ q, s.snk = .ok :: q ∧ s.settle (writeThen s.answers s.toBlock bytes k) =
      { s with
        toBlock := k s.toBlock, snk := q, sink := s.sink ++ bytes, trace := s.trace ++ [.snkWrite bytes .ok] }) ∨
    (∃ e q, s.snk = .err e :: q ∧
      s.settle (writeThen s.answers s.toBlock bytes k) = s.writeFailed q bytes e) := by
  obtain ⟨b, ⟨src, snk, ready, sink, trace, draws⟩⟩ := s
  cases snk with
  | nil => exact .inl ⟨rfl, rfl⟩
  | cons a q =>
    cases a with
    | ok => exact .inr (.inl ⟨q, rfl, rfl⟩)
    | err e => exact .inr (.inr ⟨e, q, rfl, rfl⟩)

/-- The closed machine after HASH has answered a request (20_memory R57). -/
def State.hashed (s : State) (n : Nat) : State :=
  { s with hashReady := n, trace := s.trace ++ [.hash s.gathered] }

/-- All the STRONG action can do once the block is within bounds (42_generate_pipeline R157, R158; 60_exceptions R202). -/
theorem settle_strong_cases (s : State) :
    (s.hashReady = 0 ∧ s.answers.hash = false) ∨
    ∃ n, s.hashReady = n + 1 ∧ s.answers.hash = true ∧
      ((s.strongLen = 0#32 ∧
          s.settle (strongWith s.answers s.toBlock (Config.strongHash s.gathered)) =
            (s.hashed n).withBlock (afterRecord s.toBlock)) ∨
       (s.strongLen ≠ 0#32 ∧
         ((s.snk = [] ∧ s.settle (strongWith s.answers s.toBlock (Config.strongHash s.gathered)) = s) ∨
          (∃ q, s.snk = .ok :: q ∧ s.settle (strongWith s.answers s.toBlock (Config.strongHash s.gathered)) =
            { s.hashed n with
              toBlock := afterRecord s.toBlock, snk := q, sink := s.sink ++ strongDigest s.strongLen s.gathered,
              trace := (s.hashed n).trace ++ [.snkWrite (strongDigest s.strongLen s.gathered) .ok] }) ∨
          (∃ e q, s.snk = .err e :: q ∧ s.settle (strongWith s.answers s.toBlock (Config.strongHash s.gathered)) =
            (s.hashed n).writeFailed q (strongDigest s.strongLen s.gathered) e)))) := by
  obtain ⟨b, ⟨src, snk, ready, sink, trace, draws⟩⟩ := s
  cases ready with
  | zero => exact .inl ⟨rfl, rfl⟩
  | succ n =>
    refine .inr ⟨n, rfl, rfl, ?_⟩
    by_cases hz : b.strongLen = 0#32
    · exact .inl ⟨hz, by rw [strongWith, if_pos hz]; rfl⟩
    · refine .inr ⟨hz, ?_⟩
      rw [strongWith, if_neg hz]
      cases snk with
      | nil => exact .inl ⟨rfl, rfl⟩
      | cons a q =>
        cases a with
        | ok => exact .inr (.inl ⟨q, rfl, rfl⟩)
        | err e => exact .inr (.inr ⟨e, q, rfl, rfl⟩)

/-- A fault of GENERATE pushes the faulted STATUS (60_exceptions R196). -/
theorem Block.raise_rsp_config (b : Block) (i : Word) :
    (b.raise .configError i).rsp = b.rsp ++ [0x00000201#32] := by
  rw [Block.raise_rsp, show Status.word { fault := true, done := false, cause := .configError } = 0x00000201#32 by decide]
  rfl

theorem Block.raise_rsp_source (b : Block) (i : Word) :
    (b.raise .srcReadError i).rsp = b.rsp ++ [0x00000301#32] := by
  rw [Block.raise_rsp, show Status.word { fault := true, done := false, cause := .srcReadError } = 0x00000301#32 by decide]
  rfl

theorem Block.raise_rsp_sink (b : Block) (i : Word) :
    (b.raise .snkWriteError i).rsp = b.rsp ++ [0x00000401#32] := by
  rw [Block.raise_rsp, show Status.word { fault := true, done := false, cause := .snkWriteError } = 0x00000401#32 by decide]
  rfl

/-- An illegal command pushes nothing (60_exceptions R192). -/
theorem Block.raise_rsp_illegal (b : Block) (i : Word) : (b.raise .illegalCommand i).rsp = b.rsp := rfl

/-- The bytes of a digest on the wire (20_memory R63). -/
theorem be32_digest (v : Window) :
    be32 v.digest =
      [v.s2.extractLsb' 8 8, v.s2.extractLsb' 0 8, v.s1.extractLsb' 8 8, v.s1.extractLsb' 0 8] := by
  simp only [be32, List.cons.injEq, and_true]
  refine ⟨?_, ?_, ?_, ?_⟩ <;>
  · apply BitVec.eq_of_getLsbD_eq
    intro i hi
    simp only [BitVec.getLsbD_extractLsb', hi, decide_true, Bool.true_and]
    rw [Window.digest, BitVec.getLsbD_append]
    split
    · first
        | omega
        | rfl
    · first
        | omega
        | (congr 1; omega)

/-- The magic's bytes on the wire (20_memory R60). -/
theorem be32_magic : be32 Config.magicValue = [0x72#8, 0x73#8, 0x01#8, 0x37#8] := by decide

/-- The closed machine after a read that failed (60_exceptions R194, 20_memory R56). -/
def State.readFailed (s : State) (max : Word) (q : List SrcAnswer) (e : Word) : State :=
  { s with
    toBlock := s.toBlock.raise .srcReadError e, src := q, trace := s.trace ++ [.srcRead max (.err e)],
    sink := Config.sinkAfterError s.sinkDraws, sinkDraws := s.sinkDraws + 1 }

/-- The closed machine after a read of at most `max` bytes that was answered `Data`, the block now `b` (20_memory R52). -/
def State.readData (s : State) (max : Word) (q : List SrcAnswer) (bytes : List Byte) (b : Block) : State :=
  { s with
    toBlock := b, src := srcLeft max.toNat (.data bytes :: q),
    trace := s.trace ++ [.srcRead max (.data (bytes.take max.toNat))] }

/-- All a read can do: hold, go on with the bytes, or enter the fault state (20_memory R52, 60_exceptions R194). -/
theorem settle_readThen_cases (s : State) (max : Word) (k : List Byte → Block) :
    (s.src = [] ∧ s.settle (readThen s.answers s.toBlock max k) = s) ∨
    (∃ bytes q, s.src = .data bytes :: q ∧
      s.settle (readThen s.answers s.toBlock max k) = s.readData max q bytes (k (bytes.take max.toNat))) ∨
    (∃ e q, s.src = .err e :: q ∧ s.settle (readThen s.answers s.toBlock max k) = s.readFailed max q e) := by
  obtain ⟨b, ⟨src, snk, ready, sink, trace, draws⟩⟩ := s
  cases src with
  | nil => exact .inl ⟨rfl, rfl⟩
  | cons a q =>
    cases a with
    | data bytes => exact .inr (.inl ⟨bytes, q, rfl, rfl⟩)
    | err e => exact .inr (.inr ⟨e, q, rfl, rfl⟩)

/-- The free space of BUF while a block is assembled, as a number. -/
theorem free_toNat (blockLen fill : Word) (h : fill.toNat < blockLen.toNat) :
    (blockLen - fill).toNat = blockLen.toNat - fill.toNat :=
  BitVec.toNat_sub_of_le (BitVec.le_def.2 (by omega))

/-- A failed write, as fault entry seen from outside (60_exceptions R195, R196). -/
theorem faultedBy_writeFailed (s : State) (q : List SnkAnswer) (bytes : List Byte) (e : Word) :
    faultedBy s (s.writeFailed q bytes e) .snkWriteError e 0x00000401#32 :=
  ⟨rfl, rfl, rfl, Block.raise_rsp_sink _ _, rfl, rfl, rfl, rfl, rfl, rfl, rfl⟩

/-- A failed read, as fault entry seen from outside (60_exceptions R194, R196). -/
theorem faultedBy_readFailed (s : State) (max : Word) (q : List SrcAnswer) (e : Word) :
    faultedBy s (s.readFailed max q e) .srcReadError e 0x00000301#32 :=
  ⟨rfl, rfl, rfl, Block.raise_rsp_source _ _, rfl, rfl, rfl, rfl, rfl, rfl, rfl⟩

/-- The end of a run that has not faulted (42_generate_pipeline R159). -/
theorem Block.endRun_of_noFault (b : Block) (hf : b.status.fault = false) (hc : b.status.cause = .none) :
    b.endRun = { b with
      status := { fault := false, done := true, cause := .none }, phase := .idle, rsp := b.rsp ++ [0x00000002#32] } := by
  have h : ({ b.status with done := true } : Status) = { fault := false, done := true, cause := .none } := by
    rw [← hf, ← hc]
  simp only [Block.endRun, h, Block.setStatus, Block.setPhase, Block.rspPush, Status.word_done]

end Sys2Proof.Machine
end

