-- ==== Sys2Proof/Laws/PerInstr.lean ====
section
/-! SUPPORT. Statements made of every instruction as syntax, one lemma for each constructor. -/

namespace Sys2Proof.Laws.EncodedLength

/-- A command is eight header bytes and its payload, which UPDATE alone has (30_encoding R80, R82). -/
def Statement (i : Instr) : Prop := (encode i).length = 8 + i.payload.length

theorem new : Statement .new := rfl
theorem update (payload : List Byte) : Statement (.update payload) := by
  simp [Statement, encode, Instr.payload]
theorem rollIn (cIn : Byte) : Statement (.rollIn cIn) := rfl
theorem rollOut (cOut : Byte) : Statement (.rollOut cOut) := rfl
theorem rotate (cOut cIn : Byte) : Statement (.rotate cOut cIn) := rfl
theorem digest : Statement .digest := rfl
theorem wrregBlockLen (value : Word) : Statement (.wrregBlockLen value) := rfl
theorem wrregStrongLen (value : Word) : Statement (.wrregStrongLen value) := rfl
theorem rdregMagic : Statement .rdregMagic := rfl
theorem rdregBlockLen : Statement .rdregBlockLen := rfl
theorem rdregStrongLen : Statement .rdregStrongLen := rfl
theorem rdregStatus : Statement .rdregStatus := rfl
theorem rdregErrinfo : Statement .rdregErrinfo := rfl
theorem rdregS1 : Statement .rdregS1 := rfl
theorem rdregS2 : Statement .rdregS2 := rfl
theorem rdregCount : Statement .rdregCount := rfl
theorem generate : Statement .generate := rfl

end Sys2Proof.Laws.EncodedLength
end

