-- ==== Sys2Proof/Laws/Step.lean ====
section
/-! SUPPORT. What a step of the closed machine can do in each phase, in terms of what the environment has ready. -/

namespace Sys2Proof.Machine

/-- The closed machine leaves out no step of the block: whatever the answers, some environment gives exactly them, and the
step beside it is the block's step under them (00_scope R9, log 1). -/
theorem every_stepWith_is_a_step (a : Answers) (b : Block) (m : Moved) (h : stepWith a b = .next m) :
    ∃ e : Environment, e.answers = a ∧
      step { toBlock := b, toEnvironment := e } = .next { toBlock := m.block, toEnvironment := m.made.foldl Environment.serve e } := by
  obtain ⟨src, snk, hash⟩ := a
  refine ⟨{ src := src.toList, snk := snk.toList, hashReady := hash.toNat, sink := [], trace := [], sinkDraws := 0 }, ?_⟩
  have e : ({ src := src.toList, snk := snk.toList, hashReady := hash.toNat, sink := [], trace := [], sinkDraws := 0 } :
      Environment).answers = { src := src, snk := snk, hash := hash } := by
    cases src <;> cases snk <;> cases hash <;> rfl
  refine ⟨e, ?_⟩
  unfold step
  rw [e, h]
  rfl

/-- A command changes the block alone and reads nothing of the environment (40_rwc_commands R110, 41_config_commands
R140, 42_generate_pipeline R151): run beside any environment, it does to the block what it does to the block alone. -/
theorem exec_withBlock (i : Instr) (s : State) (b : Block) :
    ∃ c : Block, exec i (s.withBlock b) = .next (s.withBlock c) ∧ b.run i = .next c.holds := by
  cases i <;> exact ⟨_, rfl, rfl⟩

/-- Every command completes: `exec` answers a next state (40_rwc_commands R110, 41_config_commands R140,
42_generate_pipeline R150). -/
theorem exec_answers_next (i : Instr) (s : State) : ∃ c : Block, exec i s = .next (s.withBlock c) := by
  obtain ⟨c, h, _⟩ := exec_withBlock i s s.toBlock
  exact ⟨c, h⟩

/-- All an idle step can do (20_memory R50, 30_encoding R91). -/
theorem step_idle_cases (s : State) (h : s.phase = .idle) :
    (decode (s.taken ++ s.cmd) = .needHeader ∧ step s = .next s) ∨
    (decode (s.taken ++ s.cmd) = .needPayload ∧
      step s = .next (s.withBlock (s.setCmd ((s.taken ++ s.cmd).take 8) ((s.taken ++ s.cmd).drop 8)))) ∨
    (∃ why info rest, decode (s.taken ++ s.cmd) = .illegal why info rest ∧
      step s = .next (s.withBlock ((s.setCmd [] rest).raise .illegalCommand info))) ∨
    (∃ i rest, decode (s.taken ++ s.cmd) = .command i rest ∧ step s = exec i (s.withBlock (s.setCmd [] rest))) := by
  rcases fetch_cases s.toBlock with ⟨h1, h2⟩ | ⟨h1, h2⟩ | ⟨why, info, rest, h1, h2⟩ | ⟨i, rest, h1, h2⟩
  · exact .inl ⟨h1, by simp only [step, stepWith, h, h2, State.settle_holds]⟩
  · exact .inr (.inl ⟨h1, by simp only [step, stepWith, h, h2]; rfl⟩)
  · exact .inr (.inr (.inl ⟨why, info, rest, h1, by simp only [step, stepWith, h, h2, State.settle_nothing]⟩))
  · refine .inr (.inr (.inr ⟨i, rest, h1, ?_⟩))
    obtain ⟨c, h3, h4⟩ := exec_withBlock i s (s.setCmd [] rest)
    simp only [step, stepWith, h, h2, h4, h3]
    rfl

theorem step_hdr0 (s : State) (h : s.phase = .hdr0) :
    step s = .next (s.settle (writeThen s.answers s.toBlock (be32 Config.magicValue) (fun c => c.setPhase .hdr1))) := by
  simp only [step, stepWith, h, actHdr0, Block.csr]

theorem step_hdr1 (s : State) (h : s.phase = .hdr1) :
    step s = .next (s.settle (writeThen s.answers s.toBlock (be32 s.blockLen) (fun c => c.setPhase .hdr2))) := by
  simp only [step, stepWith, h, actHdr1]

theorem step_hdr2 (s : State) (h : s.phase = .hdr2) :
    step s = .next (s.settle (writeThen s.answers s.toBlock (be32 s.strongLen) Block.startBlock)) := by
  simp only [step, stepWith, h, actHdr2]

/-- A step in the fault state (60_exceptions R197). -/
theorem step_fault (s : State) (h : s.phase = .fault) : step s = .next s := by
  simp only [step, stepWith, h, State.settle_holds]

/-- All a step in FILL can do (42_generate_pipeline R154, R155). -/
theorem step_fill_cases (s : State) (h : s.phase = .fill) :
    (s.blockLen.toNat ≤ s.fill.toNat ∧ step s = .next (s.withBlock (s.setPhase .weak))) ∨
    (s.fill.toNat < s.blockLen.toNat ∧
      ((s.src = [] ∧ step s = .next s) ∨
       (∃ q, s.src = .data [] :: q ∧
         step s = .next (s.readData (s.blockLen - s.fill) q []
           (if s.fill = 0#32 then s.endRun else s.setPhase .weak))) ∨
       (∃ bytes q, s.src = .data bytes :: q ∧ bytes ≠ [] ∧
         step s = .next (s.readData (s.blockLen - s.fill) q bytes
           (s.storeBytes (bytes.take (s.blockLen.toNat - s.fill.toNat))))) ∨
       (∃ e q, s.src = .err e :: q ∧ step s = .next (s.readFailed (s.blockLen - s.fill) q e)))) := by
  by_cases hf : s.fill.toNat < s.blockLen.toNat
  · refine .inr ⟨hf, ?_⟩
    have hs : step s =
        .next (s.settle (readThen s.answers s.toBlock (s.blockLen - s.fill) (fillWith s.toBlock))) := by
      simp only [step, stepWith, h, actFill, if_pos hf]
    have hm := free_toNat _ _ hf
    rw [hs]
    rcases settle_readThen_cases s (s.blockLen - s.fill) (fillWith s.toBlock) with
      ⟨h1, h2⟩ | ⟨bytes, q, h1, h2⟩ | ⟨e, q, h1, h2⟩
    · exact .inl ⟨h1, by rw [h2]⟩
    · by_cases hb : bytes = []
      · subst hb
        exact .inr (.inl ⟨q, h1, by rw [h2]; simp [fillWith]⟩)
      · refine .inr (.inr (.inl ⟨bytes, q, h1, hb, ?_⟩))
        have : bytes.take (s.blockLen.toNat - s.fill.toNat) ≠ [] := by simp [hb]; omega
        rw [h2, hm]
        simp only [fillWith, this, if_false]
    · exact .inr (.inr (.inr ⟨e, q, h1, by rw [h2]⟩))
  · exact .inl ⟨by omega, by simp only [step, stepWith, h, actFill, if_neg hf, State.settle_nothing]⟩

/-- A step in WEAK: the stop of log 9, or one write (42_generate_pipeline R156). -/
theorem step_weak_cases (s : State) (h : s.phase = .weak) :
    (s.blockLen.toNat < s.fill.toNat ∧ step s = .fault .bufIndex) ∨
    (s.fill.toNat ≤ s.blockLen.toNat ∧
      step s = .next (s.settle (writeThen s.answers s.toBlock (be32 (blockWindow s.gathered).digest)
        (fun c => (c.setW (blockWindow s.gathered)).setPhase .strong)))) := by
  by_cases hf : s.blockLen.toNat < s.fill.toNat
  · exact .inl ⟨hf, by simp only [step, stepWith, h, actWeak, if_pos hf]⟩
  · exact .inr ⟨by omega, by simp only [step, stepWith, h, actWeak, if_neg hf]⟩

/-- All a step in STRONG can do (42_generate_pipeline R157, R158; 60_exceptions R202). -/
theorem step_strong_cases (s : State) (h : s.phase = .strong) :
    (s.blockLen.toNat < s.fill.toNat ∧ step s = .fault .bufIndex) ∨
    (s.fill.toNat ≤ s.blockLen.toNat ∧
      ((s.hashReady = 0 ∧ step s = .next s) ∨
       ∃ n, s.hashReady = n + 1 ∧
        ((s.strongLen = 0#32 ∧ step s = .next ((s.hashed n).withBlock (afterRecord s.toBlock))) ∨
         (s.strongLen ≠ 0#32 ∧
          ((s.snk = [] ∧ step s = .next s) ∨
           (∃ q, s.snk = .ok :: q ∧ step s = .next
            { s.hashed n with
              toBlock := afterRecord s.toBlock, snk := q, sink := s.sink ++ strongDigest s.strongLen s.gathered,
              trace := (s.hashed n).trace ++ [.snkWrite (strongDigest s.strongLen s.gathered) .ok] }) ∨
           (∃ e q, s.snk = .err e :: q ∧
            step s = .next ((s.hashed n).writeFailed q (strongDigest s.strongLen s.gathered) e))))))) := by
  by_cases hf : s.blockLen.toNat < s.fill.toNat
  · exact .inl ⟨hf, by simp only [step, stepWith, h, actStrong, if_pos hf]⟩
  · refine .inr ⟨by omega, ?_⟩
    have hs : ∀ x : Bool, s.answers.hash = x → step s = .next (s.settle
        (if x then strongWith s.answers s.toBlock (Config.strongHash s.gathered) else s.toBlock.holds)) := by
      intro x hx
      simp only [step, stepWith, h, actStrong, if_neg hf, hx]
    rcases settle_strong_cases s with ⟨h1, h2⟩ | ⟨n, h1, h2, h3⟩
    · exact .inl ⟨h1, by rw [hs false h2]; rfl⟩
    · refine .inr ⟨n, h1, ?_⟩
      rw [hs true h2, if_pos rfl]
      rcases h3 with ⟨hz, h4⟩ | ⟨hz, ⟨h3, h4⟩ | ⟨q, h3, h4⟩ | ⟨e, q, h3, h4⟩⟩
      · exact .inl ⟨hz, by rw [h4]⟩
      · exact .inr ⟨hz, .inl ⟨h3, by rw [h4]⟩⟩
      · exact .inr ⟨hz, .inr (.inl ⟨q, h3, by rw [h4]⟩)⟩
      · exact .inr ⟨hz, .inr (.inr ⟨e, q, h3, by rw [h4]⟩)⟩

end Sys2Proof.Machine
end

