-- ==== Sys2Proof/Laws/Signature.lean ====
section
/-! SUPPORT. Small laws of runs of several steps and of the blocks of an input. -/

namespace Sys2Proof

open Machine

/-- A run whose first step is known (42_generate_pipeline R153). -/
theorem run_succ {s t : State} (h : step s = .next t) (n : Nat) :
    Sys2Proof.core.run (n + 1) s = Sys2Proof.core.run n t := by
  have h' : Sys2Proof.core.step s = .next t := h
  simp only [Host.Core.run]
  split
  · rename_i u e; rw [h'] at e; cases e; rfl
  · rename_i r e; rw [h'] at e; cases e
  · rename_i r e; rw [h'] at e; cases e

/-- Block `k` exists exactly when it has a first byte (20_memory R62). -/
theorem lt_blockCount {blockLen : Nat} (h : 0 < blockLen) (n k : Nat) :
    k < blockCount blockLen n ↔ k * blockLen < n := by
  unfold blockCount
  rw [Nat.lt_div_iff_mul_lt h]
  constructor <;> intro h <;> omega

/-- An empty input has no block (42_generate_pipeline R162). -/
theorem blockCount_zero {blockLen : Nat} (h : 0 < blockLen) : blockCount blockLen 0 = 0 := by
  unfold blockCount
  rw [Nat.div_eq_of_lt]
  omega

/-- An input of at most one block (20_memory R62). -/
theorem blockCount_one {blockLen n : Nat} (h : 0 < n) (le : n ≤ blockLen) : blockCount blockLen n = 1 := by
  unfold blockCount
  rw [Nat.div_eq_of_lt_le] <;> omega

/-- The first block is full and the rest are counted as before (20_memory R62). -/
theorem blockCount_succ {blockLen n : Nat} (h : 0 < blockLen) (le : blockLen ≤ n) :
    blockCount blockLen n = blockCount blockLen (n - blockLen) + 1 := by
  unfold blockCount
  rw [show n + blockLen - 1 = (n - blockLen + blockLen - 1) + blockLen by omega, Nat.add_div_right _ h]

@[simp] theorem blockAt_length (blockLen : Nat) (x : List Byte) (k : Nat) :
    (blockAt blockLen x k).length = min blockLen (x.length - k * blockLen) := by
  simp [blockAt]

/-- The blocks of an input that fills the first block (20_memory R62). -/
theorem blocksOf_cons {blockLen : Nat} (x : List Byte) (h : 0 < blockLen) (le : blockLen ≤ x.length) :
    blocksOf blockLen x = x.take blockLen :: blocksOf blockLen (x.drop blockLen) := by
  simp only [blocksOf, blockCount_succ h le, List.length_drop, List.range_succ_eq_map, List.map_cons, List.map_map]
  congr 1
  · simp [blockAt]
  · apply List.map_congr_left
    intro k _
    simp [blockAt, Nat.succ_mul, Nat.add_comm]

end Sys2Proof
end

