-- ==== Sys2Proof/Laws/Window.lean ====
section
/-! SUPPORT. The laws of the window arithmetic: UPDATE one byte at a time, and each command on what a window represents. -/

namespace Sys2Proof.Machine

/-- `T(n+1) = T(n) + n + 1`. -/
theorem triangular_succ (n : Nat) : triangular (n + 1) = triangular n + (n + 1) := by
  unfold triangular
  rw [show (n + 1) * (n + 1 + 1) = n * (n + 1) + (n + 1) * 2 by ring, Nat.add_mul_div_right _ _ (by omega)]

/-- The pass of UPDATE in closed form (40_rwc_commands R115). -/
theorem foldl_passByte (bs : List Byte) (a1 a2 : Half) :
    bs.foldl passByte (a1, a2) =
      (a1 + BitVec.ofNat 16 (byteSum bs),
        a2 + BitVec.ofNat 16 bs.length * a1 + BitVec.ofNat 16 (positionSum bs)) := by
  induction bs generalizing a1 a2 with
  | nil => simp [byteSum, positionSum]
  | cons b bs ih =>
    simp only [List.foldl_cons, passByte, ih, byteSum, positionSum, List.length_cons, zext16]
    have hz : b.setWidth 16 = BitVec.ofNat 16 b.toNat := by
      apply BitVec.eq_of_toNat_eq; simp
    rw [hz]
    simp only [BitVec.ofNat_add, BitVec.ofNat_mul, Prod.mk.injEq, show BitVec.ofNat 16 1 = (1 : Half) from rfl]
    exact ⟨by ring, by ring⟩

/-- UPDATE in closed form (40_rwc_commands R115). -/
theorem Window.update_closed (v : Window) (bs : List Byte) :
    v.update bs =
      { s1 := v.s1 + BitVec.ofNat 16 (byteSum bs + 31 * bs.length)
        s2 := v.s2 + BitVec.ofNat 16 bs.length * v.s1 +
          BitVec.ofNat 16 (positionSum bs + 31 * triangular bs.length)
        count := v.count + BitVec.ofNat 16 bs.length } := by
  simp only [Window.update, foldl_passByte, Config.offset, Window.mk.injEq, BitVec.ofNat_add, BitVec.ofNat_mul]
  refine ⟨by ring, by ring, trivial⟩

/-- UPDATE with no payload changes nothing (30_encoding R86). -/
@[simp] theorem Window.update_nil (v : Window) : v.update [] = v := by
  simp [Window.update_closed, byteSum, positionSum, triangular]

/-- `zext_16(c) + 31`, as a number reduced modulo 2^16. -/
theorem weighted_eq (c : Byte) : weighted c = BitVec.ofNat 16 (c.toNat + 31) := by
  apply BitVec.eq_of_toNat_eq
  simp [weighted, zext16, Config.offset]

/-- `zext_16(c)`, as a number. -/
theorem zext16_eq (c : Byte) : zext16 c = BitVec.ofNat 16 c.toNat := by
  apply BitVec.eq_of_toNat_eq
  simp [zext16]

/-- The first byte of a payload is rolled in, the rest updated with (40_rwc_commands R115). -/
theorem Window.update_cons (v : Window) (b : Byte) (bs : List Byte) :
    v.update (b :: bs) = (v.rollIn b).update bs := by
  simp only [Window.update_closed, Window.rollIn, weighted_eq, byteSum, positionSum, List.length_cons,
    triangular_succ, BitVec.ofNat_add, BitVec.ofNat_mul, Window.mk.injEq, show BitVec.ofNat 16 1 = (1 : Half) from rfl]
  exact ⟨by ring, by ring, by ring⟩

/-- A window represents bytes exactly when it is a fresh UPDATE of them (10_state R23). -/
theorem represents_iff (v : Window) (bs : List Byte) : represents v bs ↔ v = Window.zero.update bs := by
  obtain ⟨a, b, c⟩ := v
  simp only [represents, Window.update_closed, Window.mk.injEq, BitVec.toNat_eq]
  simp only [BitVec.toNat_add, BitVec.toNat_ofNat, BitVec.toNat_mul, Nat.zero_mod, Nat.mul_zero, Nat.zero_add,
    Nat.mod_mod, Nat.reducePow]
  tauto

end Sys2Proof.Machine
end

