-- ==== Sys2Proof/Tests/Slice0.lean ====
section
/-! SUPPORT. The model's own tests, each one step or one decoding on a small state, with the expected values of the
spec (30_encoding R96 and 95_test_vectors.md, named Vn as there); and, for each obligation that has hypotheses, a
state and operands that meet them. -/

namespace Sys2Proof.Tests

open Machine

/-! ### Helpers -/

/-- A check of the next state; false where there is none. -/
def nextIs (o : Host.Outcome State Fault Refusal) (p : State → Bool) : Bool :=
  match o with
  | .next t => p t
  | .fault _ => false
  | .refused _ => false

/-- The reset state with these bytes on CMD. -/
def withCmd (bytes : List Byte) : State := { State.reset with cmd := bytes }

/-- The reset state with this window in R. -/
def withR (s1 s2 count : Half) : State := { State.reset with r := { s1 := s1, s2 := s2, count := count } }

/-- The fault state, a command waiting on CMD. -/
def faulted (cause : Cause) (info : Word) : State :=
  (withCmd [0x06]).withBlock ((withCmd [0x06]).raise cause info)

/-- The window of a state. -/
def rIs (s1 s2 count : Half) (t : State) : Bool := t.r == { s1 := s1, s2 := s2, count := count }

/-- A run with `BLOCK_LEN = 4`, `STRONG_LEN = 2` (V32). -/
def run4 (p : Phase) (fill : Word) (buf : Memory) (src : List SrcAnswer) (snk : List SnkAnswer) : State :=
  { State.reset with
    blockLen := 4#32, strongLen := 2#32, phase := p, fill := fill, buf := buf, src := src, snk := snk }

/-- HASH ready to answer one request. -/
def withHash (s : State) : State := { s with hashReady := 1 }

/-- "abcd" in BUF. -/
def abcd : Memory := [(0, 0x61#8), (1, 0x62#8), (2, 0x63#8), (3, 0x64#8)]

/-! ### Well-formedness -/

theorem test_wellFormed_update : (Instr.update [0x61#8, 0x62#8, 0x63#8]).wellFormed = true := by decide

/-- A payload that `LEN` cannot count is refused (30_encoding R83). -/
theorem test_illFormed_update : (Instr.update (List.replicate 4294967296 0#8)).wellFormed = false := by
  rw [Instr.wellFormed, Instr.payload, List.length_replicate]
  decide

/-! ### Decoding: the bytes of R96, and one RDREG or WRREG for each other register -/

theorem test_decode_new : decode [0x01, 0x00, 0x00, 0x00, 0x00, 0x00, 0x00, 0x00] = .command .new [] := by decide
theorem test_decode_update :
    decode [0x02, 0x00, 0x00, 0x00, 0x00, 0x00, 0x00, 0x03, 0x61, 0x62, 0x63] =
      .command (.update [0x61, 0x62, 0x63]) [] := by decide
theorem test_decode_update_empty :
    decode [0x02, 0x00, 0x00, 0x00, 0x00, 0x00, 0x00, 0x00, 0x99] = .command (.update []) [0x99] := by decide
theorem test_decode_rollIn :
    decode [0x03, 0x00, 0x41, 0x00, 0x00, 0x00, 0x00, 0x00] = .command (.rollIn 0x41) [] := by decide
theorem test_decode_rollOut :
    decode [0x04, 0x41, 0x00, 0x00, 0x00, 0x00, 0x00, 0x00] = .command (.rollOut 0x41) [] := by decide
theorem test_decode_rotate :
    decode [0x05, 0x41, 0x7A, 0x00, 0x00, 0x00, 0x00, 0x00] = .command (.rotate 0x41 0x7A) [] := by decide
theorem test_decode_digest : decode [0x06, 0x00, 0x00, 0x00, 0x00, 0x00, 0x00, 0x00] = .command .digest [] := by decide
theorem test_decode_wrregBlockLen :
    decode [0x10, 0x01, 0x00, 0x00, 0x00, 0x00, 0x00, 0x04] = .command (.wrregBlockLen 4) [] := by decide
theorem test_decode_wrregStrongLen :
    decode [0x10, 0x02, 0x00, 0x00, 0x00, 0x00, 0x00, 0x08] = .command (.wrregStrongLen 8) [] := by decide
theorem test_decode_rdregMagic :
    decode [0x11, 0x00, 0x00, 0x00, 0x00, 0x00, 0x00, 0x00] = .command .rdregMagic [] := by decide
theorem test_decode_rdregBlockLen :
    decode [0x11, 0x01, 0x00, 0x00, 0x00, 0x00, 0x00, 0x00] = .command .rdregBlockLen [] := by decide
theorem test_decode_rdregStrongLen :
    decode [0x11, 0x02, 0x00, 0x00, 0x00, 0x00, 0x00, 0x00] = .command .rdregStrongLen [] := by decide
theorem test_decode_rdregStatus :
    decode [0x11, 0x03, 0x00, 0x00, 0x00, 0x00, 0x00, 0x00] = .command .rdregStatus [] := by decide
theorem test_decode_rdregErrinfo :
    decode [0x11, 0x04, 0x00, 0x00, 0x00, 0x00, 0x00, 0x00] = .command .rdregErrinfo [] := by decide
theorem test_decode_rdregS1 :
    decode [0x11, 0x10, 0x00, 0x00, 0x00, 0x00, 0x00, 0x00] = .command .rdregS1 [] := by decide
theorem test_decode_rdregS2 :
    decode [0x11, 0x11, 0x00, 0x00, 0x00, 0x00, 0x00, 0x00] = .command .rdregS2 [] := by decide
theorem test_decode_rdregCount :
    decode [0x11, 0x12, 0x00, 0x00, 0x00, 0x00, 0x00, 0x00] = .command .rdregCount [] := by decide
theorem test_decode_generate :
    decode [0x20, 0x00, 0x00, 0x00, 0x00, 0x00, 0x00, 0x00] = .command .generate [] := by decide

/-- Is this header refused, and by which name? -/
def refusedAs (opc a b z : Byte) (imm : Word) (why : IllegalHeader) : Bool :=
  decodeHeader { opc := opc, a := a, b := b, z := z, imm := imm } == .illegal why

/-- V23a to V23q: every item of R90 and every format. -/
theorem test_illegal_headers :
    refusedAs 0x00 0x00 0x00 0x00 0 .unknownOpcode = true ∧ refusedAs 0xFF 0x00 0x00 0x00 0 .unknownOpcode = true ∧
    refusedAs 0x07 0x00 0x00 0x00 0 .unknownOpcode = true ∧ refusedAs 0x03 0x01 0x41 0x00 0 .unusedField = true ∧
    refusedAs 0x04 0x00 0x41 0x00 0 .unusedField = true ∧ refusedAs 0x05 0x41 0x7A 0x00 1 .unusedField = true ∧
    refusedAs 0x06 0x00 0x41 0x00 0 .unusedField = true ∧ refusedAs 0x01 0x00 0x00 0x01 0 .reservedField = true ∧
    refusedAs 0x02 0x00 0x00 0x01 3 .reservedField = true ∧ refusedAs 0x02 0x01 0x00 0x00 3 .unusedField = true ∧
    refusedAs 0x10 0x00 0x00 0x00 0x72730137 .notWritable = true ∧ refusedAs 0x10 0x03 0x00 0x00 1 .notWritable = true ∧
    refusedAs 0x10 0x01 0x01 0x00 4 .unusedField = true ∧ refusedAs 0x11 0x05 0x00 0x00 0 .notReadable = true ∧
    refusedAs 0x11 0x03 0x00 0x00 1 .unusedField = true ∧ refusedAs 0x11 0x00 0x01 0x00 0 .unusedField = true ∧
    refusedAs 0x20 0x00 0x00 0x00 1 .unusedField = true := by decide

/-- The table's numbering: header bits 63 to 0, the payload from bit 64 on. -/
theorem test_decodeTableWord :
    decodeTableWord 64 0x0541_7A00_0000_0000 = some (.rotate 0x41 0x7A) ∧
    decodeTableWord 64 0x0200_0000_0000_0002 = some (.update [0x00, 0x00]) ∧
    decodeTableWord 80 0x6261_0200_0000_0000_0002 = some (.update [0x61, 0x62]) ∧
    decodeTableWord 64 0x0301_4100_0000_0000 = none := by decide

theorem test_text :
    (Instr.rotate 0x41 0x7A).text = "ROTATE 0x41, 0x7A" ∧ (Instr.update [0x61, 0x0A]).text = "UPDATE hex:610A" := by
  decide

/-! ### One step of each command -/

theorem test_step_new :
    nextIs (step { withR 0x1234 0x5678 0x9ABC with cmd := [0x01, 0, 0, 0, 0, 0, 0, 0, 0x06] })
      (fun t => rIs 0 0 0 t && t.cmd == [0x06]) = true := by decide

/-- V2. -/
theorem test_step_update :
    nextIs (step (withCmd [0x02, 0, 0, 0, 0, 0, 0, 3, 0x61, 0x62, 0x63])) (rIs 0x0183 0x0304 0x0003) = true := by decide

/-- V12: UPDATE goes on from the window's own `s1`. -/
theorem test_exec_update_again :
    nextIs (exec (.update [0x64, 0x65]) (withR 0x0183 0x0304 0x0003)) (rIs 0x028A 0x0794 0x0005) = true := by decide

/-- V6: `count` wraps. -/
theorem test_exec_rollIn_wraps :
    nextIs (exec (.rollIn 0x01) (withR 0x1234 0x5678 0xFFFF)) (rIs 0x1254 0x68CC 0x0000) = true := by decide

/-- V6b: `s1` and `s2` wrap, and `s2` takes the new `s1`. -/
theorem test_exec_rollIn_sums :
    nextIs (exec (.rollIn 0xFF) (withR 0xFFF0 0xFFF0 0x0001)) (rIs 0x010E 0x00FE 0x0002) = true := by decide

/-- V8b: an empty window. -/
theorem test_exec_rollOut_empty :
    nextIs (exec (.rollOut 0xFF) (withR 0 0 0)) (rIs 0xFEE2 0x0000 0xFFFF) = true := by decide

/-- V8c: the old `count` is the multiplier. -/
theorem test_exec_rollOut_product :
    nextIs (exec (.rollOut 0x10) (withR 0x1111 0x2222 0x8000)) (rIs 0x10E2 0xA222 0x7FFF) = true := by decide

/-- V9. -/
theorem test_exec_rotate :
    nextIs (exec (.rotate 0x61 0x64) (withR 0x0183 0x0304 0x0003)) (rIs 0x0186 0x030A 0x0003) = true := by decide

/-- V10b: the difference wraps, `count = 0` leaves no product. -/
theorem test_exec_rotate_wraps :
    nextIs (exec (.rotate 0xFF 0x00) (withR 0 0 0)) (rIs 0xFF01 0xFF01 0x0000) = true := by decide

/-- V18: `s1` is not sign-extended into the high half. -/
theorem test_exec_digest :
    nextIs (exec .digest (withR 0xFFFF 0x0001 0x1234)) (fun t => t.rsp == [0x0001FFFF]) = true := by decide

/-- V22b. -/
theorem test_exec_wrregBlockLen :
    nextIs (exec (.wrregBlockLen 0) State.reset) (fun t => t.blockLen == 0 && t.strongLen == 32) = true := by decide

/-- V22c. -/
theorem test_exec_wrregStrongLen :
    nextIs (exec (.wrregStrongLen 0xFFFFFFFF) State.reset)
      (fun t => t.strongLen == 0xFFFFFFFF && t.blockLen == 2048) = true := by decide

/-- V22a. -/
theorem test_exec_rdreg_reset :
    nextIs (exec .rdregMagic State.reset) (fun t => t.rsp == [0x72730137]) = true ∧
    nextIs (exec .rdregBlockLen State.reset) (fun t => t.rsp == [0x00000800]) = true ∧
    nextIs (exec .rdregStrongLen State.reset) (fun t => t.rsp == [0x00000020]) = true ∧
    nextIs (exec .rdregStatus State.reset) (fun t => t.rsp == [0]) = true ∧
    nextIs (exec .rdregErrinfo State.reset) (fun t => t.rsp == [0]) = true := by decide

/-- V22d: zero-extended. -/
theorem test_exec_rdreg_window :
    nextIs (exec .rdregS1 (withR 0xFFD6 0xED22 0x00E5)) (fun t => t.rsp == [0x0000FFD6]) = true ∧
    nextIs (exec .rdregS2 (withR 0xFFD6 0xED22 0x00E5)) (fun t => t.rsp == [0x0000ED22]) = true ∧
    nextIs (exec .rdregCount (withR 0xFFD6 0xED22 0x00E5)) (fun t => t.rsp == [0x000000E5]) = true := by decide

/-- V23d and V43: an illegal header faults, its four first bytes in ERRINFO, nothing pushed. -/
theorem test_step_illegal :
    nextIs (step (withCmd [0x03, 0x01, 0x41, 0, 0, 0, 0, 0, 0x06]))
      (fun t => t.csr .status == 0x00000101 && t.errinfo == 0x03014100 && t.cmd == [0x06] && t.rsp == [] &&
        t.faultOut && t.causeOut == 1#4) = true := by decide

/-- A payload that is not whole holds the block; its header has left CMD (10_state R38). -/
theorem test_step_partial :
    nextIs (step (withCmd [0x02, 0, 0, 0, 0, 0, 0, 3, 0x61]))
      (fun t => t.taken == [0x02, 0, 0, 0, 0, 0, 0, 3] && t.cmd == [0x61] && rIs 0 0 0 t) = true := by decide

/-! ### GENERATE, one action at a time -/

/-- V37c: both checks fail and the mask says so. -/
theorem test_configError_checks :
    nextIs (exec .generate { State.reset with blockLen := 0, strongLen := 0xFFFFFFFF })
      (fun t => t.errinfo == 3 && t.rsp == [0x00000201] && t.blockLen == 0 && t.phase == .fault) = true := by decide

/-- V37e: the boundary values are legal. -/
theorem test_generate_starts :
    nextIs (exec .generate { State.reset with blockLen := 1#32 })
      (fun t => t.phase == .hdr0 && t.rsp == [] && t.trace == []) = true := by
  have h : configMask 1#32 32#32 = 0#32 := (configMask_eq_zero_iff _ _).2 ⟨by decide, bufCap_pos, by decide⟩
  have e : exec .generate { State.reset with blockLen := 1#32 } =
      .next (State.reset.withBlock (Block.startRun { State.reset.toBlock with blockLen := 1#32 })) := by
    change Host.Outcome.next (State.withBlock _ (if configMask 1#32 32#32 = 0#32 then _ else _)) = _
    rw [if_pos h]
    rfl
  rw [e]
  decide

/-- V32, the header's first write. -/
theorem test_hdr0 :
    nextIs (step (run4 .hdr0 0 [] [] [.ok]))
      (fun t => t.sink == [0x72, 0x73, 0x01, 0x37] && t.phase == .hdr1 && t.snk == []) = true := by decide

/-- V32, the header's last write. -/
theorem test_hdr2 :
    nextIs (step (run4 .hdr2 9 [] [] [.ok]))
      (fun t => t.sink == [0, 0, 0, 2] && t.phase == .fill && t.fill == 0) = true := by decide

/-- P3: the chunk "defg" is cut to the one byte asked for, the rest kept. -/
theorem test_fill_cuts :
    nextIs (step (run4 .fill 3 [(0, 0x61), (1, 0x62), (2, 0x63)] [.data [0x64, 0x65, 0x66, 0x67]] []))
      (fun t => t.buf == abcd && t.fill == 4 && t.phase == .fill && t.src == [.data [0x65, 0x66, 0x67]] &&
        t.trace == [.srcRead 1 (.data [0x64])]) = true := by decide

/-- V34: a zero-length answer on a block boundary ends the run. -/
theorem test_fill_end :
    nextIs (step (run4 .fill 0 abcd [.data []] []))
      (fun t => t.phase == .idle && t.rsp == [0x00000002] && t.sink == []) = true := by decide

/-- V38: a read error. -/
theorem test_fill_error :
    nextIs (step (run4 .fill 2 abcd [.err 0xDEAD0001] []))
      (fun t => t.rsp == [0x00000301] && t.errinfo == 0xDEAD0001 && t.phase == .fault) = true := by decide

/-- V32: `weak("abcd") = 0x050A0206`, written most significant byte first. -/
theorem test_weak :
    nextIs (step (run4 .weak 4 abcd [] [.ok]))
      (fun t => t.sink == [0x05, 0x0A, 0x02, 0x06] && t.phase == .strong) = true := by decide

/-- V32: a short block "ij", stale bytes above it. -/
theorem test_weak_short :
    nextIs (step (run4 .weak 2 [(0, 0x69), (1, 0x6A), (2, 0x67), (3, 0x68)] [] [.ok]))
      (fun t => t.sink == [0x01, 0x99, 0x01, 0x11]) = true := by decide

/-- V36: with `STRONG_LEN = 0` no write is issued, and a full block is followed by the next. -/
theorem test_strong_none :
    nextIs (step { run4 .strong 4 abcd [] [] with strongLen := 0#32, hashReady := 1 })
      (fun t => t.phase == .fill && t.fill == 0 && t.sink == [] && t.snk == [] && t.hashReady == 0) = true := by decide

/-- R202: the hash has not come, though the sink is ready; the write of the record waits. -/
theorem test_strong_waits_for_hash :
    nextIs (step (run4 .strong 4 abcd [] [.ok])) (fun t => t == run4 .strong 4 abcd [] [.ok]) = true := by decide

/-- V32: a short block is the last. -/
theorem test_strong_last :
    nextIs (step { run4 .strong 2 abcd [] [] with strongLen := 0#32, hashReady := 1 })
      (fun t => t.phase == .idle && t.rsp == [0x00000002]) = true := by decide

/-- V40: the error value 0. -/
theorem test_write_error :
    nextIs (step (run4 .hdr0 0 [] [] [.err 0]))
      (fun t => t.rsp == [0x00000401] && t.errinfo == 0 && t.phase == .fault && t.causeOut == 4#4) = true := by decide

/-- One block, two steps, by what the environment answers in the step: an error, a wait (00_scope R9, V40). -/
theorem test_answers_are_arguments :
    stepWith { src := none, snk := some (.err 9), hash := false } (run4 .hdr1 0 [] [] []).toBlock =
      .next
        { block := (run4 .hdr1 0 [] [] []).raise .snkWriteError 9, made := [.snkWrite [0, 0, 0, 4] (.err 9)] } ∧
    stepWith { src := some (.data []), snk := none, hash := true } (run4 .hdr1 0 [] [] []).toBlock =
      .next { block := (run4 .hdr1 0 [] [] []).toBlock, made := [] } :=
  ⟨rfl, rfl⟩

/-- V47: rst during a run. -/
theorem test_rst :
    ((run4 .strong 4 abcd [.data [0x65]] []).env .rst).blockLen = 2048#32 ∧
    ((run4 .strong 4 abcd [.data [0x65]] []).env .rst).phase = .idle ∧
    ((run4 .strong 4 abcd [.data [0x65]] []).env .rst).src = [.data [0x65#8]] := by decide

/-- An instruction placed by withFetchWord is the one the next step runs. -/
theorem test_withFetchWord :
    nextIs (step (State.reset.withFetchWord 64 0x0300_4100_0000_0000)) (rIs 0x0060 0x0060 0x0001) = true ∧
    nextIs (step (State.reset.withFetchWord 64 0x2000_0000_0000_0000)) (fun _ => true) = true := by
  constructor <;> decide

/-! ### Witnesses: for each obligation with hypotheses, a state and operands that meet them

`small` states have an empty BUF and, in a run, `BLOCK_LEN = 1`, which every `BUF_CAP` allows (00_scope R8). -/

/-- A run with `BLOCK_LEN = 1`, `STRONG_LEN = 3` (V45). -/
def run1 (p : Phase) (fill : Word) (src : List SrcAnswer) (snk : List SnkAnswer) : State :=
  { State.reset with blockLen := 1#32, strongLen := 3#32, phase := p, fill := fill, src := src, snk := snk }

/-- The invariant of a small state, from what can be decided of it. -/
theorem inv_of_small (s : State) (hb : s.buf = []) (ht : partialCommand s.taken)
    (hc : s.phase.running = true → s.blockLen = 1#32 ∧ s.strongLen.toNat ≤ 32)
    (h : (s.status.fault = true ↔ s.phase = .fault) ∧ (s.status.cause = .none ↔ s.status.fault = false) ∧
      ¬(s.status.fault = true ∧ s.status.done = true) ∧ (s.status.fault = false → s.errinfo = 0#32) ∧
      (s.phase.running = true → s.status.done = false) ∧ (s.phase = .fill → s.fill.toNat ≤ s.blockLen.toNat) ∧
      (s.phase = .weak ∨ s.phase = .strong → 1 ≤ s.fill.toNat ∧ s.fill.toNat ≤ s.blockLen.toNat) ∧
      (s.phase ≠ .idle → s.taken = [])) : Inv s := by
  obtain ⟨h1, h2, h3, h4, h5, h6, h7, h8⟩ := h
  refine ⟨by rw [hb]; rfl, by rw [hb]; rfl, h1, h2, h3, h4, h5, fun hr => ?_, h6, h7, ht, h8⟩
  obtain ⟨e, l⟩ := hc hr
  rw [e]
  exact ⟨by decide, bufCap_pos, l⟩

theorem witness_DecodeOfEncode :
    (Instr.update []).wellFormed = true ∧ (Instr.update [0x61]).wellFormed = true ∧
    (Instr.rotate 0xFF 0x00).wellFormed = true ∧ (Instr.wrregBlockLen 0xFFFFFFFF).wellFormed = true ∧
    Instr.generate.wellFormed = true := by decide

theorem witness_EncodeOfDecode :
    decode [0x02, 0, 0, 0, 0, 0, 0, 1, 0x61, 0x06] = .command (.update [0x61]) [0x06] := by decide

theorem witness_HeaderDecodingIsInjective :
    (∀ why, decodeHeader { opc := 0x01, a := 0, b := 0, z := 0, imm := 0 } ≠ .illegal why) ∧
    decodeHeader { opc := 0x05, a := 0x41, b := 0x7A, z := 0, imm := 0 } = .command (.rotate 0x41 0x7A) ∧
    decodeHeader { opc := 0x02, a := 0, b := 0, z := 0, imm := 1 } = .updateHeader (BitVec.ofNat 32 [0x61#8].length) ∧
    decodeHeader { opc := 0x02, a := 0, b := 0, z := 0, imm := 0 } =
      .updateHeader (BitVec.ofNat 32 ([] : List Byte).length) :=
  ⟨fun why h => by cases why <;> exact absurd h (by decide), by decide, by decide, by decide⟩

theorem witness_OpcodeTableDecidesDecoding :
    (∃ row ∈ opcodeTable, row.selects 0x0200000000000003#64 = true) ∧
    (∃ row ∈ opcodeTable, row.selects 0x2000000000000000#64 = true) ∧
    ∀ row ∈ opcodeTable, row.selects 0x0301410000000000#64 = false := by decide

theorem witness_CommandFraming :
    decodeHeader (headerOfBits 0x2000000000000001#64) = .illegal .unusedField ∧
    decodeHeader (headerOfBits 0x0600000000000000#64) = .command .digest ∧
    decodeHeader (headerOfBits 0x0200000000000002#64) = .updateHeader 2#32 ∧
    [0x61#8].length < (2#32).toNat ∧ [0x61#8, 0x62#8, 0x06#8] = [0x61#8, 0x62#8] ++ [0x06#8] ∧
    [0x61#8, 0x62#8].length = (2#32).toNat ∧ [0#8, 0#8, 0#8, 0#8, 0#8, 0#8, 0#8].length < 8 := by decide

theorem witness_StepRunsTheDecodedCommand :
    ∃ s : State, s.phase = .idle ∧ s.taken ≠ [] ∧ decode (s.taken ++ s.cmd) = .command (.update [0x61]) [0x06] :=
  ⟨{ withCmd [0x61, 0x06] with taken := [0x02, 0, 0, 0, 0, 0, 0, 1] }, by decide⟩

theorem witness_StepRunsTheEncodedCommand :
    ∃ s : State, s.phase = .idle ∧ (Instr.rollIn 0x41).wellFormed = true ∧
      s.taken ++ s.cmd = encode (.rollIn 0x41) ++ [0x06] :=
  ⟨withCmd [0x03, 0, 0x41, 0, 0, 0, 0, 0, 0x06], by decide⟩

theorem witness_IllegalHeaderEntersFault :
    ∃ s : State, s.phase = .idle ∧
      s.taken ++ s.cmd = Header.bytes { opc := 0x03, a := 0x01, b := 0x41, z := 0, imm := 0 } ++ [0x06] ∧
      decodeHeader { opc := 0x03, a := 0x01, b := 0x41, z := 0, imm := 0 } = .illegal .unusedField :=
  ⟨withCmd [0x03, 0x01, 0x41, 0, 0, 0, 0, 0, 0x06], by decide⟩

theorem witness_PartialCommandHasNoEffect :
    (∃ s : State, s.phase = .idle ∧ s.cmd ≠ [] ∧ decode (s.taken ++ s.cmd) = .needHeader) ∧
    (∃ s : State, s.phase = .idle ∧ s.taken = [] ∧ decode (s.taken ++ s.cmd) = .needPayload) :=
  ⟨⟨withCmd [0x02, 0, 0, 0, 0, 0, 0], by decide⟩, ⟨withCmd [0x02, 0, 0, 0, 0, 0, 0, 2, 0x61], by decide⟩⟩

theorem witness_ArrivalInPiecesIsInvisible :
    ∃ s : State, s.phase = .idle ∧ (Instr.update [0x61, 0x62]).wellFormed = true ∧
      s.taken ++ s.cmd = [0x02, 0, 0, 0, 0, 0, 0, 2, 0x61] ∧
      [0x02, 0, 0, 0, 0, 0, 0, 2, 0x61] ++ [0x62] = encode (.update [0x61, 0x62]) ∧ [0x62#8] ≠ [] :=
  ⟨withCmd [0x02, 0, 0, 0, 0, 0, 0, 2, 0x61], by decide⟩

theorem witness_FaultStateIsSticky : ∃ s : State, s.phase = .fault ∧ EnvAction.rspTake ≠ .rst :=
  ⟨faulted .illegalCommand 0, by decide⟩

theorem witness_StepKeepsTheInvariant :
    (∃ s t : State, Inv s ∧ s.phase = .idle ∧ s.taken ≠ [] ∧ step s = .next t) ∧
    (∃ s t : State, Inv s ∧ s.phase = .fill ∧ step s = .next t) ∧
    (∃ s t : State, Inv s ∧ s.phase = .strong ∧ step s = .next t) ∧
    (∃ s t : State, Inv s ∧ s.phase = .fault ∧ step s = .next t) :=
  ⟨⟨{ withCmd [0x61] with taken := [0x02, 0, 0, 0, 0, 0, 0, 1] }, _,
      inv_of_small _ rfl (.inr ⟨1#32, by decide, by decide⟩) (fun h => absurd h (by decide)) (by decide), rfl,
      by decide, rfl⟩,
    ⟨run1 .fill 0 [.data [0x00]] [], _, inv_of_small _ rfl (.inl rfl) (fun _ => by decide) (by decide), rfl, rfl⟩,
    ⟨withHash (run1 .strong 1 [] [.ok]), _, inv_of_small _ rfl (.inl rfl) (fun _ => by decide) (by decide), rfl, rfl⟩,
    ⟨faulted .illegalCommand 7, _,
      inv_of_small _ rfl (.inl rfl) (fun h => absurd h (by decide)) (by decide), rfl, rfl⟩⟩

theorem witness_EnvironmentKeepsTheInvariant : Inv (run1 .fill 1 [] []) :=
  inv_of_small _ rfl (.inl rfl) (fun _ => by decide) (by decide)

theorem witness_NoStopUnderTheInvariant : Inv (run1 .weak 1 [] []) :=
  inv_of_small _ rfl (.inl rfl) (fun _ => by decide) (by decide)

theorem witness_ReachableStatesNeverStop : Reachable ((State.reset.env (.cmdSend [0x06])).env .rspTake) :=
  .env _ _ (.env _ _ .reset)

theorem witness_UpdateIsAdditive :
    0 ≤ [0x61#8, 0x62#8].length ∧ 1 ≤ [0x61#8, 0x62#8].length ∧ 2 ≤ [0x61#8, 0x62#8].length := by decide

theorem witness_WindowRefinesItsBytes :
    represents { s1 := 0x0183, s2 := 0x0304, count := 0x0003 } [0x61, 0x62, 0x63] ∧
    windowAfterAll [0x61, 0x62, 0x63] [.rotate 0x61 0x64, .rollOut 0x62, .rollIn 0x65, .update [0x66], .digest] =
      some [0x63, 0x64, 0x65, 0x66] ∧
    windowAfterAll [0x61] [.new] = some [] :=
  ⟨⟨by decide, by decide, by decide⟩, by decide, by decide⟩

theorem witness_WindowCommandsActOnTheWindow :
    Instr.digest ∈ [Instr.new, .update [], .rollIn 0, .rollOut 0, .rotate 0 0, .digest] ∧
    Instr.new ∈ [Instr.new, .update [], .rollIn 0, .rollOut 0, .rotate 0 0, .digest] := by decide

theorem witness_IdleStatusReadsZeroOrDone :
    (∃ s : State, Inv s ∧ s.phase = .idle ∧ s.status.done = true ∧
      decode (s.taken ++ s.cmd) = .command .rdregStatus [0x06]) ∧
    (∃ s : State, Inv s ∧ s.phase = .idle ∧ decode (s.taken ++ s.cmd) = .command .rdregErrinfo []) :=
  ⟨⟨{ withCmd [0x11, 0x03, 0, 0, 0, 0, 0, 0, 0x06] with status := { fault := false, done := true, cause := .none } },
      inv_of_small _ rfl (.inl rfl) (fun h => absurd h (by decide)) (by decide), by decide⟩,
    ⟨withCmd [0x11, 0x04, 0, 0, 0, 0, 0, 0],
      inv_of_small _ rfl (.inl rfl) (fun h => absurd h (by decide)) (by decide), by decide⟩⟩

/-- A legal configuration at both bounds, and one that breaks each check that no `BUF_CAP` can lift; the third check
fails for some `BLOCK_LEN` exactly when `BUF_CAP` is below `2^32 - 1`, which is left open (log 11). -/
theorem witness_GenerateStartAction :
    (0 < (1#32).toNat ∧ (32#32).toNat ≤ 32 ∧ (1#32).toNat ≤ Config.bufCap) ∧
    ¬(0 < (0#32).toNat ∧ (32#32).toNat ≤ 32 ∧ (0#32).toNat ≤ Config.bufCap) ∧
    ¬(0 < (1#32).toNat ∧ (33#32).toNat ≤ 32 ∧ (1#32).toNat ≤ Config.bufCap) :=
  ⟨⟨by decide, by decide, bufCap_pos⟩, fun h => absurd h.1 (by decide), fun h => absurd h.2.1 (by decide)⟩

theorem witness_HeaderActions :
    ((run4 .hdr0 0 [] [] [.ok]).snk = .ok :: [] ∧ (run4 .hdr0 0 [] [] [.ok]).phase = .hdr0) ∧
    ((run4 .hdr1 0 [] [] [.ok]).snk = .ok :: [] ∧ (run4 .hdr1 0 [] [] [.ok]).phase = .hdr1) ∧
    ((run4 .hdr2 0 [] [] [.ok]).snk = .ok :: [] ∧ (run4 .hdr2 0 [] [] [.ok]).phase = .hdr2) ∧
    ((run4 .hdr2 0 [] [] [.err 0]).snk = .err 0 :: [] ∧
      ((run4 .hdr2 0 [] [] [.err 0]).phase = .hdr0 ∨ (run4 .hdr2 0 [] [] [.err 0]).phase = .hdr1 ∨
        (run4 .hdr2 0 [] [] [.err 0]).phase = .hdr2)) := by decide

/-- A chunk that fits and one that is cut. -/
theorem witness_FillStoresTheAnswer :
    (∃ s : State, s.phase = .fill ∧ s.fill.toNat < s.blockLen.toNat ∧ s.src = .data [0x61] :: [] ∧
      [0x61#8] ≠ [] ∧ s.buf.wf = true) ∧
    (∃ s : State, s.phase = .fill ∧ s.fill.toNat < s.blockLen.toNat ∧ s.src = .data [0x64, 0x65] :: [] ∧
      [0x64#8, 0x65#8] ≠ [] ∧ s.buf.wf = true) :=
  ⟨⟨run4 .fill 0 [] [.data [0x61]] [], by decide⟩, ⟨run4 .fill 3 abcd [.data [0x64, 0x65]] [], by decide⟩⟩

theorem witness_FillAtEndOfStream :
    (∃ s : State, s.phase = .fill ∧ s.fill.toNat < s.blockLen.toNat ∧ s.src = .data [] :: [] ∧ s.fill ≠ 0#32) ∧
    (∃ s : State, s.phase = .fill ∧ s.fill.toNat < s.blockLen.toNat ∧ s.src = .data [] :: [] ∧ s.fill = 0#32 ∧
      s.status.fault = false ∧ s.status.cause = .none) :=
  ⟨⟨run4 .fill 3 abcd [.data []] [], by decide⟩, ⟨run4 .fill 0 abcd [.data []] [], by decide⟩⟩

theorem witness_SourceErrorEntersFault :
    ∃ s : State, s.phase = .fill ∧ s.fill.toNat < s.blockLen.toNat ∧ s.src = .err 0xDEAD0001 :: [.data []] :=
  ⟨run4 .fill 2 abcd [.err 0xDEAD0001, .data []] [], by decide⟩

theorem witness_FullBlockGoesToWeak : ∃ s : State, s.phase = .fill ∧ s.fill = s.blockLen :=
  ⟨run4 .fill 4 abcd [] [], by decide⟩

theorem witness_WeakActionWritesTheDigest :
    ∃ s : State, s.phase = .weak ∧ s.fill.toNat ≤ s.blockLen.toNat ∧ s.snk = .ok :: [] :=
  ⟨run4 .weak 4 abcd [] [.ok], by decide⟩

/-- No strong bytes after a short block; two strong bytes after a full one. -/
theorem witness_StrongActionWritesTheHash :
    (∃ (s t : State) (n : Nat), s.phase = .strong ∧ s.fill.toNat ≤ s.blockLen.toNat ∧ s.strongLen.toNat ≤ 32 ∧
      s.status.fault = false ∧ s.status.cause = .none ∧ s.hashReady = n + 1 ∧
      (s.strongLen = 0#32 ∧ t = { s with hashReady := n })) ∧
    (∃ (s t : State) (n : Nat), s.phase = .strong ∧ s.fill.toNat ≤ s.blockLen.toNat ∧ s.strongLen.toNat ≤ 32 ∧
      s.status.fault = false ∧ s.status.cause = .none ∧ s.hashReady = n + 1 ∧
      ∃ q, s.strongLen ≠ 0#32 ∧ s.snk = .ok :: q ∧
        t = { s with
          hashReady := n, snk := q, sink := s.sink ++ (Config.strongHash s.gathered).toList.take s.strongLen.toNat }) :=
  ⟨⟨{ withHash (run4 .strong 2 abcd [] []) with strongLen := 0#32 }, _, 0, rfl, by decide, by decide, rfl, rfl, rfl,
      rfl, rfl⟩,
    ⟨withHash (run4 .strong 4 abcd [] [.ok]), _, 0, rfl, by decide, by decide, rfl, rfl, rfl, [], by decide, rfl, rfl⟩⟩

theorem witness_SinkErrorEntersFault :
    ∀ p ∈ [Phase.hdr0, .hdr1, .hdr2, .weak, .strong], ∃ s : State, s.snk = .err 0 :: [] ∧ s.phase = p ∧
      (s.phase = .hdr0 ∨ s.phase = .hdr1 ∨ s.phase = .hdr2 ∨
        (s.phase = .weak ∧ s.fill.toNat ≤ s.blockLen.toNat) ∨
        (s.phase = .strong ∧ s.fill.toNat ≤ s.blockLen.toNat ∧ s.strongLen ≠ 0#32 ∧ s.hashReady ≠ 0)) := by
  intro p hp
  refine ⟨withHash (run4 p 4 abcd [] [.err 0]), rfl, rfl, ?_⟩
  revert p
  decide

theorem witness_WaitingActionHolds :
    (∃ s : State, s.src = [] ∧ s.phase = .fill ∧ s.fill.toNat < s.blockLen.toNat) ∧
    (∃ s : State, s.snk = [] ∧ (s.phase = .hdr0 ∨ s.phase = .hdr1 ∨ s.phase = .hdr2)) ∧
    (∃ s : State, s.snk = [] ∧ s.phase = .weak ∧ s.fill.toNat ≤ s.blockLen.toNat ∧ s.strongLen = 0#32) ∧
    (∃ s : State, s.snk = [] ∧ s.phase = .strong ∧ s.fill.toNat ≤ s.blockLen.toNat ∧ s.strongLen ≠ 0#32 ∧
      s.hashReady ≠ 0) ∧
    (∃ s : State, s.hashReady = 0 ∧ s.phase = .strong ∧ s.fill.toNat ≤ s.blockLen.toNat ∧ s.snk ≠ []) :=
  ⟨⟨run4 .fill 3 abcd [] [.ok], by decide⟩, ⟨run4 .hdr1 0 [] [.data []] [], by decide⟩,
    ⟨{ run4 .weak 4 abcd [] [] with strongLen := 0#32 }, by decide⟩,
    ⟨withHash (run4 .strong 4 abcd [.data []] []), by decide⟩, ⟨run4 .strong 4 abcd [] [.ok], by decide⟩⟩

theorem witness_RunLeavesWindowAndConfiguration :
    ∃ s t : State, s.phase ≠ .idle ∧ s.cmd ≠ [] ∧ step s = .next t :=
  ⟨{ run4 .hdr0 0 [] [] [.ok] with cmd := [0x06] }, _, by decide, by decide, rfl⟩

/-- A step that waits, one that moves, one that takes a byte. -/
theorem witness_RunStepsMakeProgress :
    (∃ s t : State, s.phase.running = true ∧ step s = .next t ∧ t = s) ∧
    (∃ s t : State, s.phase.running = true ∧ step s = .next t ∧ t.phase ≠ s.phase) ∧
    (∃ s t : State, s.phase.running = true ∧ step s = .next t ∧ s.fill.toNat < t.fill.toNat) :=
  ⟨⟨run4 .hdr0 0 [] [.data []] [], _, rfl, rfl, rfl⟩, ⟨run4 .hdr0 0 [] [] [.ok], _, rfl, rfl, by decide⟩,
    ⟨run4 .fill 0 [] [.data [0x61]] [], _, rfl, rfl, by decide⟩⟩

theorem witness_ResponsesComeFromThreeCommands :
    (∃ s t : State, step s = .next t ∧ s.phase = .idle ∧ t.rsp ≠ s.rsp) ∧
    (∃ s t : State, step s = .next t ∧ s.phase.running = true ∧ t.phase = .idle ∧ t.rsp ≠ s.rsp) ∧
    (∃ s t : State, step s = .next t ∧ s.phase.running = true ∧ t.phase = .fault ∧ t.rsp ≠ s.rsp) :=
  ⟨⟨withCmd [0x06, 0, 0, 0, 0, 0, 0, 0], _, rfl, rfl, by decide⟩,
    ⟨run4 .fill 0 [] [.data []] [], _, rfl, rfl, by decide, by decide⟩,
    ⟨run4 .fill 0 [] [.err 0] [], _, rfl, rfl, by decide, by decide⟩⟩

theorem witness_SinkIsAppendOnly :
    (∃ s t : State, step s = .next t ∧ t.sink ≠ s.sink ∧ t.phase = .hdr1) ∧
    (∃ s t : State, step s = .next t ∧ t.phase = .fault ∧ t.status.cause = .snkWriteError) :=
  ⟨⟨run4 .hdr0 0 [] [] [.ok], _, rfl, by decide, by decide⟩, ⟨run4 .hdr0 0 [] [] [.err 0], _, rfl, by decide, by decide⟩⟩

theorem witness_PortTransactionsAreLegal :
    (∃ s t : State, Inv s ∧ step s = .next t ∧ s.phase = .fill) ∧
    (∃ s t : State, Inv s ∧ step s = .next t ∧ s.phase = .weak) ∧
    (∃ s t : State, Inv s ∧ step s = .next t ∧ s.phase = .strong) :=
  ⟨⟨run1 .fill 0 [.data [0x00, 0xFF]] [], _, inv_of_small _ rfl (.inl rfl) (fun _ => by decide) (by decide), rfl, rfl⟩,
    ⟨run1 .weak 1 [] [.ok], _, inv_of_small _ rfl (.inl rfl) (fun _ => by decide) (by decide), rfl, rfl⟩,
    ⟨withHash (run1 .strong 1 [] [.err 1]), _, inv_of_small _ rfl (.inl rfl) (fun _ => by decide) (by decide), rfl, rfl⟩⟩

/-- Two states of a run that differ in W and in the stale bytes of BUF. -/
theorem witness_StaleStateIsInvisible :
    ∃ s t : State, s.buf.wf = true ∧ t.buf.wf = true ∧ sameButStale s t ∧ s ≠ t :=
  ⟨run4 .weak 2 abcd [] [.ok],
    { run4 .weak 2 [(0, 0x61), (1, 0x62), (3, 0x99)] [] [.ok] with w := { s1 := 1, s2 := 2, count := 3 } },
    by decide, by decide, ⟨by decide, rfl⟩, by decide⟩

/-- V45, and an empty input with no strong bytes and no hash to be had. -/
theorem witness_SuccessfulRunWritesTheSignature :
    (∃ s : State, Inv s ∧ s.phase = .idle ∧ s.taken ++ s.cmd = encode .generate ++ [0x06] ∧
      legalConfig s.blockLen s.strongLen ∧ (∀ c ∈ [[0x00#8], [0xFF#8]], c ≠ []) ∧
      s.src = [[0x00#8], [0xFF#8]].map SrcAnswer.data ++ .data [] :: [.data [0x01]] ∧
      s.snk = List.replicate (writesOf s.blockLen s.strongLen [[0x00#8], [0xFF#8]].flatten.length) .ok ++ [] ∧
      s.hashReady = blockCount s.blockLen.toNat [[0x00#8], [0xFF#8]].flatten.length + 1) ∧
    (∃ s : State, Inv s ∧ s.phase = .idle ∧ s.taken ++ s.cmd = encode .generate ++ [] ∧
      legalConfig s.blockLen s.strongLen ∧ (∀ c ∈ ([] : List (List Byte)), c ≠ []) ∧
      s.src = ([] : List (List Byte)).map SrcAnswer.data ++ .data [] :: [] ∧
      s.snk = List.replicate (writesOf s.blockLen s.strongLen ([] : List (List Byte)).flatten.length) .ok ++ [.err 1] ∧
      s.hashReady = blockCount s.blockLen.toNat ([] : List (List Byte)).flatten.length + 0) :=
  ⟨⟨{ run1 .idle 0 [.data [0x00], .data [0xFF], .data [], .data [0x01]] (List.replicate 7 .ok) with
        cmd := [0x20, 0, 0, 0, 0, 0, 0, 0, 0x06], hashReady := 3 },
      inv_of_small _ rfl (.inl rfl) (fun h => absurd h (by decide)) (by decide), rfl, by decide,
      ⟨by decide, bufCap_pos, by decide⟩, by decide, rfl, by decide, by decide⟩,
    ⟨{ run1 .idle 0 [.data []] [.ok, .ok, .ok, .err 1] with strongLen := 0#32, cmd := [0x20, 0, 0, 0, 0, 0, 0, 0] },
      inv_of_small _ rfl (.inl rfl) (fun h => absurd h (by decide)) (by decide), rfl, by decide,
      ⟨by decide, bufCap_pos, by decide⟩, by decide, rfl, by decide, by decide⟩⟩

theorem witness_BlocksPartitionTheInput :
    0 < 4 ∧ blocksOf 4 [0x61#8, 0x62#8, 0x63#8, 0x64#8, 0x65#8] ≠ [] ∧ 0 + 1 < blockCount 4 5 := by decide

theorem witness_SignatureLength : (0#32).toNat ≤ 32 ∧ (32#32).toNat ≤ 32 := by decide

theorem witness_DefaultHeaderBytes : 0 < (1#32).toNat := by decide

theorem witness_ExhaustedSourceDeliversTheWholeInput :
    srcExhaustionTerminated [.data [0x61], .data [], .data []] ∧ (∀ c ∈ [[0x61#8]], c ≠ []) ∧
    [SrcAnswer.data [0x61], .data [], .data []] = [[0x61#8]].map SrcAnswer.data ++ .data [] :: [.data []] :=
  ⟨by simp [srcExhaustionTerminated], by decide, rfl⟩

/-- A state in a run, one in the fault state, and an action of the outside that is not rst. -/
theorem witness_RstResetsTheBlock :
    EnvAction.hashOffer ≠ .rst ∧ (run1 .strong 1 [] []).phase.running = true ∧
    ∃ s : State, s.phase = .fault ∧ s.rsp ≠ [] :=
  ⟨by decide, rfl, faulted .configError 1, by decide⟩

end Sys2Proof.Tests
end

section
/-! PROOFS of the family of the state. First what one action of a run can make of the block, and what a command can; then
the invariant read by phase, and that each of these moves keeps it. -/

namespace Sys2Proof

open Machine

/-! ### What a step can make of the block -/

/-- What one action of a run can make of the block: hold, enter the fault state after an `Err`, or go on
(42_generate_pipeline R152 to R159; 60_exceptions R194, R195, R202). -/
inductive Machine.RunMove (b : Block) : Block → Prop
  | hold : RunMove b b
  | srcError (e : Word) : RunMove b (b.raise .srcReadError e)
  | snkError (e : Word) : RunMove b (b.raise .snkWriteError e)
  | toHdr1 (h : b.phase = .hdr0) : RunMove b (b.setPhase .hdr1)
  | toHdr2 (h : b.phase = .hdr1) : RunMove b (b.setPhase .hdr2)
  | firstBlock (h : b.phase = .hdr2) : RunMove b b.startBlock
  | toWeak (h : b.phase = .fill) (filled : b.blockLen.toNat ≤ b.fill.toNat ∨ b.fill ≠ 0#32) :
      RunMove b (b.setPhase .weak)
  | noBlock (h : b.phase = .fill) (empty : b.fill = 0#32) : RunMove b b.endRun
  | store (bytes : List Byte) (h : b.phase = .fill) (fits : b.fill.toNat + bytes.length ≤ b.blockLen.toNat) :
      RunMove b (b.storeBytes bytes)
  | weakDone (v : Window) (h : b.phase = .weak) : RunMove b ((b.setW v).setPhase .strong)
  | strongDone (h : b.phase = .strong) : RunMove b (afterRecord b)

/-- An action that is one write holds, goes on or enters the fault state (20_memory R55, 60_exceptions R195). -/
theorem runMove_of_write {s t : State} {bytes : List Byte} {k : Block → Block}
    (e : step s = .next (s.settle (writeThen s.answers s.toBlock bytes k))) (h : step s = .next t)
    (hk : RunMove s.toBlock (k s.toBlock)) : RunMove s.toBlock t.toBlock := by
  obtain rfl : s.settle (writeThen s.answers s.toBlock bytes k) = t := by simpa [e] using h
  rcases settle_writeThen_cases s bytes k with ⟨_, h2⟩ | ⟨q, _, h2⟩ | ⟨err, q, _, h2⟩ <;> rw [h2]
  · exact .hold
  · exact hk
  · exact .snkError _

/-- Every step of a run is one of the moves (42_generate_pipeline R152 to R159). -/
theorem runMove_of_step {s t : State} (hr : s.phase.running = true) (h : step s = .next t) :
    RunMove s.toBlock t.toBlock := by
  cases hp : s.phase with
  | idle => simp [hp, Phase.running] at hr
  | fault => simp [hp, Phase.running] at hr
  | hdr0 => exact runMove_of_write (step_hdr0 s hp) h (.toHdr1 hp)
  | hdr1 => exact runMove_of_write (step_hdr1 s hp) h (.toHdr2 hp)
  | hdr2 => exact runMove_of_write (step_hdr2 s hp) h (.firstBlock hp)
  | fill =>
    rcases step_fill_cases s hp with
      ⟨hf, e⟩ | ⟨hf, ⟨_, e⟩ | ⟨q, _, e⟩ | ⟨bytes, q, _, _, e⟩ | ⟨err, q, _, e⟩⟩ <;>
      (rw [e] at h; cases h)
    · exact .toWeak hp (.inl hf)
    · exact .hold
    · by_cases hz : s.fill = 0#32
      · simpa [State.readData, hz] using RunMove.noBlock hp hz
      · simpa [State.readData, hz] using RunMove.toWeak hp (.inr hz)
    · exact .store _ hp (by simp only [List.length_take]; omega)
    · exact .srcError _
  | weak =>
    rcases step_weak_cases s hp with ⟨_, e⟩ | ⟨_, e⟩
    · simp [e] at h
    · exact runMove_of_write e h (.weakDone _ hp)
  | strong =>
    rcases step_strong_cases s hp with
      ⟨_, e⟩ | ⟨_, ⟨_, e⟩ | ⟨n, _, ⟨_, e⟩ | ⟨_, ⟨_, e⟩ | ⟨q, _, e⟩ | ⟨err, q, _, e⟩⟩⟩⟩ <;>
      (rw [e] at h; cases h)
    · exact .hold
    · exact .strongDone hp
    · exact .hold
    · exact .strongDone hp
    · exact .snkError _

/-- What follows a record: the end of the run after a short block, else the next block (42_generate_pipeline R158). -/
theorem afterRecord_cases (b : Block) : afterRecord b = b.endRun ∨ afterRecord b = b.startBlock := by
  unfold afterRecord
  split
  · exact .inl rfl
  · exact .inr rfl

/-- No move of a run writes R, the configuration or the command channel (10_state R36, 42_generate_pipeline R160). -/
theorem Machine.RunMove.frame {b c : Block} (h : RunMove b c) :
    c.r = b.r ∧ c.blockLen = b.blockLen ∧ c.strongLen = b.strongLen ∧ c.taken = b.taken ∧ c.cmd = b.cmd := by
  cases h with
  | strongDone _ => rcases afterRecord_cases b with e | e <;> simp [e]
  | _ => simp

/-- What a command can make of the block: a new R, a response word, a configuration register written, or GENERATE's start
action (40_rwc_commands R110, 41_config_commands R140, 42_generate_pipeline R151). -/
theorem exec_cases {i : Instr} {s t : State} (h : exec i s = .next t) :
    (∃ v, t = s.withBlock (s.setR v)) ∨ (∃ v, t = s.withBlock (s.rspPush v)) ∨
    (∃ v, t = s.withBlock (s.setBlockLen v)) ∨ (∃ v, t = s.withBlock (s.setStrongLen v)) ∨
    t = s.withBlock s.checkAndStart := by
  cases i <;> cases h
  case new | update | rollIn | rollOut | rotate => exact .inl ⟨_, rfl⟩
  case wrregBlockLen => exact .inr (.inr (.inl ⟨_, rfl⟩))
  case wrregStrongLen => exact .inr (.inr (.inr (.inl ⟨_, rfl⟩)))
  case generate => exact .inr (.inr (.inr (.inr rfl)))
  all_goals exact .inr (.inl ⟨_, rfl⟩)

/-- A step answers a next state, but for the one stop of log 9: WEAK or STRONG with `fill` above `BLOCK_LEN`. -/
theorem step_next_or_stop (s : State) :
    (∃ t, step s = .next t) ∨
      ((s.phase = .weak ∨ s.phase = .strong) ∧ s.blockLen.toNat < s.fill.toNat) := by
  cases hp : s.phase with
  | idle =>
    rcases step_idle_cases s hp with ⟨_, e⟩ | ⟨_, e⟩ | ⟨_, _, _, _, e⟩ | ⟨i, rest, _, e⟩
    case inr.inr.inr =>
      obtain ⟨c, hc⟩ := exec_answers_next i (s.withBlock (s.setCmd [] rest))
      exact .inl ⟨_, e.trans hc⟩
    all_goals exact .inl ⟨_, e⟩
  | hdr0 => exact .inl ⟨_, step_hdr0 s hp⟩
  | hdr1 => exact .inl ⟨_, step_hdr1 s hp⟩
  | hdr2 => exact .inl ⟨_, step_hdr2 s hp⟩
  | fill =>
    rcases step_fill_cases s hp with ⟨_, e⟩ | ⟨_, ⟨_, e⟩ | ⟨_, _, e⟩ | ⟨_, _, _, _, e⟩ | ⟨_, _, _, e⟩⟩ <;>
      exact .inl ⟨_, e⟩
  | weak =>
    rcases step_weak_cases s hp with ⟨hlt, _⟩ | ⟨_, e⟩
    · exact .inr ⟨.inl rfl, hlt⟩
    · exact .inl ⟨_, e⟩
  | strong =>
    rcases step_strong_cases s hp with
      ⟨hlt, _⟩ | ⟨_, ⟨_, e⟩ | ⟨n, _, ⟨_, e⟩ | ⟨_, ⟨_, e⟩ | ⟨_, _, e⟩ | ⟨_, _, _, e⟩⟩⟩⟩
    case inl => exact .inr ⟨.inr rfl, hlt⟩
    all_goals exact .inl ⟨_, e⟩
  | fault => exact .inl ⟨_, step_fault s hp⟩

/-! ### The invariant, phase by phase -/

/-- BUF is in canonical form and within its capacity (00_scope R8, 20_memory R58). -/
def Machine.Block.bufOk (b : Block) : Prop := b.buf.wf = true ∧ b.buf.below Config.bufCap = true

/-- The registers of a block without a fault (10_state R33, R34). -/
def Machine.Block.noFault (b : Block) : Prop :=
  b.status.fault = false ∧ b.status.cause = .none ∧ b.errinfo = 0#32

/-- How full the block being assembled is (10_state R37, 42_generate_pipeline R156). -/
def Machine.Block.fillOk (b : Block) : Prop :=
  (b.phase = .fill → b.fill.toNat ≤ b.blockLen.toNat) ∧
    (b.phase = .weak ∨ b.phase = .strong → 1 ≤ b.fill.toNat ∧ b.fill.toNat ≤ b.blockLen.toNat)

/-- A run is in none of the two resting phases. -/
theorem Machine.Phase.running_iff (p : Phase) : p.running = true ↔ p ≠ .idle ∧ p ≠ .fault := by
  cases p <;> decide

/-- The invariant in IDLE: no fault, and perhaps a partial command. -/
theorem inv_idle_iff {s : State} (hp : s.phase = .idle) :
    Inv s ↔ s.bufOk ∧ s.noFault ∧ partialCommand s.taken := by
  constructor
  · intro h
    have hf : s.status.fault = false := by simpa [hp] using h.faultIff
    exact ⟨⟨h.bufWf, h.bufBelow⟩, ⟨hf, h.causeIff.2 hf, h.errinfoZero hf⟩, h.takenOk⟩
  · rintro ⟨⟨hw, hb⟩, ⟨hf, hc, he⟩, ht⟩
    constructor <;> simp [hp, hw, hb, hf, hc, he, ht, Phase.running]

/-- The invariant in a run: no fault, DONE clear, a legal configuration, no partial command. -/
theorem inv_running_iff {s : State} (hr : s.phase.running = true) :
    Inv s ↔ s.bufOk ∧ s.noFault ∧ s.status.done = false ∧ legalConfig s.blockLen s.strongLen ∧ s.fillOk ∧
      s.taken = [] := by
  obtain ⟨hi, hp⟩ := (Phase.running_iff _).1 hr
  constructor
  · intro h
    have hf : s.status.fault = false := by simpa [hp] using h.faultIff
    exact ⟨⟨h.bufWf, h.bufBelow⟩, ⟨hf, h.causeIff.2 hf, h.errinfoZero hf⟩, h.runningNotDone hr, h.runningConfig hr,
      ⟨h.fillBound, h.blockBound⟩, h.takenIdle hi⟩
  · rintro ⟨⟨hw, hb⟩, ⟨hf, hc, he⟩, hd, hl, ⟨hfill, hblock⟩, ht⟩
    exact ⟨hw, hb, by simp [hf, hp], by simp [hf, hc], by simp [hf], fun _ => he, fun _ => hd, fun _ => hl, hfill, hblock,
      .inl ht, fun _ => ht⟩

/-- The invariant in FAULT: a cause, DONE clear, no partial command. -/
theorem inv_fault_iff {s : State} (hp : s.phase = .fault) :
    Inv s ↔ s.bufOk ∧ s.status.fault = true ∧ s.status.done = false ∧ s.status.cause ≠ .none ∧ s.taken = [] := by
  constructor
  · intro h
    have hf : s.status.fault = true := h.faultIff.2 hp
    exact ⟨⟨h.bufWf, h.bufBelow⟩, hf, by simpa [hf] using h.notBoth, by simp [h.causeIff, hf],
      h.takenIdle (by simp [hp])⟩
  · rintro ⟨⟨hw, hb⟩, hf, hd, hc, ht⟩
    constructor <;> simp [hp, hw, hb, hf, hd, hc, ht, Phase.running, partialCommand]

/-! ### Each move keeps the invariant -/

/-- Fault entry with nothing left of a partial command (60_exceptions R196). -/
theorem inv_of_raise {t : State} {b : Block} {c : Cause} {e : Word} (hb : b.bufOk) (ht : b.taken = [])
    (hc : c ≠ .none) (eq : t.toBlock = b.raise c e) : Inv t := by
  rw [inv_fault_iff (by simp [eq])]
  simpa [eq, Block.bufOk, hc, ht] using hb

/-- The end of a run that has not faulted (42_generate_pipeline R159). -/
theorem inv_of_endRun {t : State} {b : Block} (hb : b.bufOk) (hf : b.noFault) (ht : b.taken = [])
    (eq : t.toBlock = b.endRun) : Inv t := by
  rw [inv_idle_iff (by simp [eq])]
  exact ⟨by simpa [eq, Block.bufOk] using hb, by simpa [eq, Block.noFault] using hf, .inl (by simp [eq, ht])⟩

/-- Storing bytes that fit raises `fill` by their number, without wrapping (42_generate_pipeline R154). -/
theorem storeBytes_fill_toNat {b : Block} {bytes : List Byte} {n : Word}
    (fits : b.fill.toNat + bytes.length ≤ n.toNat) :
    (b.storeBytes bytes).fill.toNat = b.fill.toNat + bytes.length := by
  have hn := n.isLt
  rw [Block.storeBytes_fill, BitVec.toNat_add, BitVec.toNat_ofNat, Nat.add_mod_mod, Nat.mod_eq_of_lt (by omega)]

/-- Storing bytes below BUF's capacity keeps its form and bound (42_generate_pipeline R154). -/
theorem storeBytes_bufOk {b : Block} {bytes : List Byte} (hb : b.bufOk)
    (fits : b.fill.toNat + bytes.length ≤ Config.bufCap) : (b.storeBytes bytes).bufOk := by
  obtain ⟨hw, hbelow⟩ := hb
  exact ⟨Memory.writeBytes_wf _ _ _ hw, Memory.writeBytes_below _ _ _ _ hbelow fits⟩

/-- A move inside a run writes `phase`, W, BUF and `fill` only: BUF and `fill` are all there is to check. -/
theorem inv_of_running {s t : State} {p : Phase} {v : Window} {m : Memory} {n : Word} (hs : Inv s)
    (hr : s.phase.running = true) (eq : t.toBlock = { s.toBlock with phase := p, w := v, buf := m, fill := n })
    (hp : p.running = true) (hb : t.bufOk) (hfill : t.fillOk) : Inv t := by
  obtain ⟨_, hf, hd, hl, _, ht⟩ := (inv_running_iff hr).1 hs
  rw [inv_running_iff (by simpa [eq] using hp)]
  exact ⟨hb, by simpa [eq, Block.noFault] using hf, by simpa [eq] using hd, by simpa [eq] using hl, hfill,
    by simpa [eq] using ht⟩

/-- Every move of a run keeps the invariant. -/
theorem inv_of_runMove {s t : State} (hs : Inv s) (hr : s.phase.running = true)
    (h : RunMove s.toBlock t.toBlock) : Inv t := by
  obtain ⟨hb, hf, _, ⟨hl, hcap, _⟩, ⟨hfill, hblock⟩, ht⟩ := (inv_running_iff hr).1 hs
  have start (eq : t.toBlock = s.startBlock) : Inv t :=
    inv_of_running hs hr eq rfl (by simpa [eq, Block.bufOk] using hb) (by simp [eq, Block.fillOk])
  generalize eq : t.toBlock = c at h
  cases h with
  | hold => exact inv_of_running hs hr eq hr (by rwa [eq]) (by rw [eq]; exact ⟨hfill, hblock⟩)
  | srcError e => exact inv_of_raise (c := .srcReadError) hb ht nofun eq
  | snkError e => exact inv_of_raise (c := .snkWriteError) hb ht nofun eq
  | toHdr1 _ | toHdr2 _ =>
    exact inv_of_running hs hr eq rfl (by simpa [eq, Block.bufOk] using hb) (by simp [eq, Block.fillOk])
  | firstBlock _ => exact start eq
  | toWeak h filled =>
    have pos : 1 ≤ s.fill.toNat := by
      rcases filled with full | nonzero
      · omega
      · exact Nat.pos_of_ne_zero fun h0 => nonzero (BitVec.eq_of_toNat_eq h0)
    exact inv_of_running hs hr eq rfl (by simpa [eq, Block.bufOk] using hb)
      (by simpa [eq, Block.fillOk] using ⟨pos, hfill h⟩)
  | noBlock _ _ => exact inv_of_endRun hb hf ht eq
  | store bytes h fits =>
    refine inv_of_running hs hr eq hr (by rw [eq]; exact storeBytes_bufOk hb (by omega)) ?_
    rw [eq, Block.fillOk, storeBytes_fill_toNat fits]
    simpa [h] using fits
  | weakDone v h =>
    exact inv_of_running hs hr eq rfl (by simpa [eq, Block.bufOk] using hb)
      (by simpa [eq, Block.fillOk] using hblock (.inl h))
  | strongDone _ =>
    rcases afterRecord_cases s.toBlock with e | e
    · exact inv_of_endRun hb hf ht (eq.trans e)
    · exact start (eq.trans e)

/-- GENERATE's start action keeps the invariant: it starts a run on a legal configuration only
(42_generate_pipeline R151). -/
theorem inv_checkAndStart {s : State} (hs : Inv s) (hp : s.phase = .idle) (ht : s.taken = []) :
    Inv (s.withBlock s.checkAndStart) := by
  obtain ⟨hb, hf, _⟩ := (inv_idle_iff hp).1 hs
  unfold Block.checkAndStart
  split
  next legal =>
    rw [configMask_eq_zero_iff] at legal
    rw [inv_running_iff rfl]
    exact ⟨hb, hf, rfl, legal, ⟨nofun, nofun⟩, ht⟩
  next => exact inv_of_raise (c := .configError) hb ht nofun rfl

/-- Every command taken whole from CMD keeps the invariant. -/
theorem inv_exec {i : Instr} {s t : State} (hs : Inv s) (hp : s.phase = .idle) (ht : s.taken = [])
    (h : exec i s = .next t) : Inv t := by
  have idle := (inv_idle_iff hp).1 hs
  rcases exec_cases h with ⟨v, rfl⟩ | ⟨v, rfl⟩ | ⟨v, rfl⟩ | ⟨v, rfl⟩ | rfl
  case inr.inr.inr.inr => exact inv_checkAndStart hs hp ht
  all_goals exact (inv_idle_iff (by exact hp)).2 idle

/-- What leaves CMD while a payload is awaited is a whole legal UPDATE header that announces bytes (10_state R38). -/
theorem partialCommand_of_needPayload {bytes : List Byte} (h : decode bytes = .needPayload) :
    partialCommand (bytes.take 8) := by
  rcases decode_cases bytes with
    ⟨_, e⟩ | ⟨hd, rest, rfl, ⟨_, _, e⟩ | ⟨_, _, e⟩ | ⟨len, hlen, hrest, _⟩ | ⟨_, _, _, _, _, _, e⟩⟩
  case inr.inr.inr.inl =>
    refine .inr ⟨len, fun h0 => ?_, ?_⟩
    · simp [h0] at hrest
    · rw [← header_of_updateHeader hlen]
      exact List.take_left' hd.bytes_length
  all_goals rw [e] at h; cases h

/-- What an idle block holds or takes of CMD keeps the invariant. -/
theorem inv_setCmd {s : State} {taken cmd : List Byte} (hs : Inv s) (hp : s.phase = .idle)
    (ht : partialCommand taken) : Inv (s.withBlock (s.setCmd taken cmd)) := by
  obtain ⟨hb, hf, _⟩ := (inv_idle_iff hp).1 hs
  exact (inv_idle_iff (by exact hp)).2 ⟨hb, hf, ht⟩

/-- Every step of an idle block keeps the invariant. -/
theorem inv_idle_step {s t : State} (hs : Inv s) (hp : s.phase = .idle) (h : step s = .next t) : Inv t := by
  rcases step_idle_cases s hp with ⟨_, e⟩ | ⟨hd, e⟩ | ⟨_, info, rest, _, e⟩ | ⟨i, rest, _, e⟩ <;> rw [e] at h
  · cases h; exact hs
  · cases h; exact inv_setCmd hs hp (partialCommand_of_needPayload hd)
  · cases h; exact inv_of_raise (b := s.setCmd [] rest) (c := .illegalCommand) ⟨hs.bufWf, hs.bufBelow⟩ rfl nofun rfl
  · exact inv_exec (inv_setCmd hs hp (.inl rfl)) hp rfl h

/-- Settles O15: an idle step, a move of a run and a step in FAULT each keep the invariant. -/
theorem stepKeepsTheInvariant : Obligations.StepKeepsTheInvariant := by
  intro s t hs h
  by_cases hi : s.phase = .idle
  · exact inv_idle_step hs hi h
  by_cases hf : s.phase = .fault
  · rw [step_fault s hf] at h
    cases h; exact hs
  have hr := (Phase.running_iff _).2 ⟨hi, hf⟩
  exact inv_of_runMove hs hr (runMove_of_step hr h)

/-- Settles O17: WEAK and STRONG stop only when `fill` is above `BLOCK_LEN`, which the invariant rules out. -/
theorem noStopUnderTheInvariant : Obligations.NoStopUnderTheInvariant := by
  intro s hs
  rcases step_next_or_stop s with h | ⟨hp, hlt⟩
  · exact h
  · exact absurd (hs.blockBound hp).2 (Nat.not_le.2 hlt)

/-- Settles O48: no move of a run writes R, the configuration or the command channel. -/
theorem runLeavesWindowAndConfiguration : Obligations.RunLeavesWindowAndConfiguration := by
  intro s t hi h
  by_cases hf : s.phase = .fault
  · rw [step_fault s hf] at h
    cases h; exact ⟨rfl, rfl, rfl, rfl, rfl⟩
  exact (runMove_of_step ((Phase.running_iff _).2 ⟨hi, hf⟩) h).frame

/-- Settles O14: reset is idle, without a fault and without a partial command. -/
theorem resetMeetsTheInvariant : Obligations.ResetMeetsTheInvariant :=
  (inv_idle_iff rfl).2 ⟨⟨rfl, rfl⟩, ⟨rfl, rfl, rfl⟩, .inl rfl⟩

/-- Settles O60: each value is a field of the reset state or read from one (10_state R42). -/
theorem resetValues : Obligations.ResetValues :=
  ⟨rfl, rfl, rfl, rfl, by decide, rfl, rfl, rfl, rfl, rfl, rfl, rfl, rfl, rfl⟩

/-- Settles O37: reading STATUS gives its word, whose bits are the fields. -/
theorem statusWordLayout : Obligations.StatusWordLayout := by
  intro s
  obtain ⟨hfault, hdone, hlow, hcause, hhigh⟩ := s.status.word_bits
  exact ⟨hfault, hdone, hlow, hcause, hhigh, hfault.symm, hcause.symm, rfl⟩

end Sys2Proof
end

section
/-! PROOFS on the window: UPDATE of one string after another, and each window command on what the window represents; then
that a sequence of them represents the bytes it leaves (10_state R23, 40_rwc_commands R126). -/

namespace Sys2Proof

open Machine

/-- UPDATE of two strings, one after the other, is UPDATE of both (40_rwc_commands R124). -/
theorem Machine.Window.update_append (v : Window) (xs ys : List Byte) :
    (v.update xs).update ys = v.update (xs ++ ys) := by
  induction xs generalizing v with
  | nil => simp
  | cons x xs ih => simp only [List.cons_append, Window.update_cons, ih]

/-- ROLL_IN is UPDATE of one byte (40_rwc_commands R116). -/
theorem Machine.Window.rollIn_eq_update (v : Window) (c : Byte) : v.rollIn c = v.update [c] := by
  rw [Window.update_cons, Window.update_nil]

/-- ROTATE is ROLL_OUT and then ROLL_IN (40_rwc_commands R127, 90 C2). -/
theorem Machine.Window.rotate_eq_rollOut_rollIn (v : Window) (cOut cIn : Byte) :
    v.rotate cOut cIn = (v.rollOut cOut).rollIn cIn := by
  simp only [Window.rotate, Window.rollOut, Window.rollIn, weighted, Window.mk.injEq]
  exact ⟨by ring, by ring, by ring⟩

/-- A from-scratch UPDATE, in closed form (10_state R23). -/
theorem Machine.Window.update_zero (bs : List Byte) :
    Window.zero.update bs =
      { s1 := BitVec.ofNat 16 (byteSum bs + 31 * bs.length)
        s2 := BitVec.ofNat 16 (positionSum bs + 31 * triangular bs.length)
        count := BitVec.ofNat 16 bs.length } := by
  simp [Window.update_closed]

/-- ROLL_OUT of the oldest byte leaves the window of the other bytes (40_rwc_commands R118, R126). -/
theorem Machine.Window.rollOut_update_cons (c : Byte) (bs : List Byte) :
    (Window.zero.update (c :: bs)).rollOut c = Window.zero.update bs := by
  simp only [Window.update_zero, Window.rollOut, weighted_eq, byteSum, positionSum, List.length_cons, triangular_succ,
    BitVec.ofNat_add, BitVec.ofNat_mul, Window.mk.injEq, show BitVec.ofNat 16 1 = (1 : Half) from rfl]
  exact ⟨by ring, by ring, by ring⟩

/-- Appending to what a window represents is UPDATE. -/
theorem represents_update {v : Window} {bytes : List Byte} (h : represents v bytes) (payload : List Byte) :
    represents (v.update payload) (bytes ++ payload) := by
  rw [represents_iff] at h ⊢
  rw [h, Window.update_append]

/-- Removing the oldest byte a window represents is ROLL_OUT. -/
theorem represents_rollOut {v : Window} {bytes : List Byte} {c : Byte} (h : represents v bytes)
    (oldest : bytes.head? = some c) : represents (v.rollOut c) bytes.tail := by
  obtain ⟨rest, rfl⟩ := List.head?_eq_some_iff.1 oldest
  rw [represents_iff] at h ⊢
  rw [h, Window.rollOut_update_cons, List.tail_cons]

/-- The window after a well-formed use represents the bytes then in it; only R and the response words change. -/
theorem exec_represents {i : Instr} {s : State} {bytes after : List Byte} (h : represents s.r bytes)
    (use : windowAfter bytes i = some after) :
    ∃ t, exec i s = .next t ∧ represents t.r after ∧ t = { s with r := t.r, rsp := t.rsp } := by
  cases i <;> simp only [windowAfter, reduceCtorEq, Option.ite_none_right_eq_some, Option.some.injEq] at use
  case new => subst use; exact ⟨_, rfl, (represents_iff _ _).2 (Window.update_nil _).symm, rfl⟩
  case update payload => subst use; exact ⟨_, rfl, represents_update h payload, rfl⟩
  case rollIn cIn =>
    subst use
    refine ⟨_, rfl, ?_, rfl⟩
    simpa [Window.rollIn_eq_update] using represents_update h [cIn]
  case rollOut cOut =>
    obtain ⟨oldest, rfl⟩ := use
    exact ⟨_, rfl, represents_rollOut h oldest, rfl⟩
  case rotate cOut cIn =>
    obtain ⟨oldest, rfl⟩ := use
    refine ⟨_, rfl, ?_, rfl⟩
    simpa [Window.rotate_eq_rollOut_rollIn, Window.rollIn_eq_update] using
      represents_update (represents_rollOut h oldest) [cIn]
  case digest => subst use; exact ⟨_, rfl, h, rfl⟩

/-- A sequence of well-formed uses, by induction on the sequence. -/
theorem execAll_represents (is : List Instr) {bytes after : List Byte} {s : State} (h : represents s.r bytes)
    (use : windowAfterAll bytes is = some after) :
    ∃ t, execAll is s = .next t ∧ represents t.r after ∧ t = { s with r := t.r, rsp := t.rsp } := by
  induction is generalizing bytes s with
  | nil =>
    obtain rfl : bytes = after := by simpa [windowAfterAll] using use
    exact ⟨s, rfl, h, rfl⟩
  | cons i is ih =>
    obtain ⟨mid, hmid, use⟩ := Option.bind_eq_some_iff.1 use
    obtain ⟨t, ht, hr, frame⟩ := exec_represents h hmid
    obtain ⟨u, hu, hru, frame'⟩ := ih hr use
    refine ⟨u, by simp only [execAll, ht, hu], hru, ?_⟩
    rw [frame', frame]

/-- Settles O31, by induction on the commands; the zero state is UPDATE of nothing. -/
theorem windowRefinesItsBytes : Obligations.WindowRefinesItsBytes := by
  refine ⟨fun s h => ?_, fun is _ _ _ h use => execAll_represents is h use⟩
  rw [represents_iff, h, Window.update_nil]

end Sys2Proof
end

section
/-! PROOFS that no step depends on W, nor on the bytes of BUF at and above `fill`: a relation on blocks that each update,
port, action and command keeps, carried to the closed machine at the end. -/

namespace Sys2Proof

open Machine

/-! ### Blocks that agree but for stale state -/

/-- The second block is the first but for W and for bytes of BUF at and above `fill` (10_state R36, R37). -/
inductive Machine.Block.SameButStale (b : Block) : Block → Prop
  | mk (w : Window) (m : Memory) (agree : ∀ a, a < b.fill.toNat → b.buf.read a = m.read a) :
      SameButStale b { b with w := w, buf := m }

/-- Two moves of the block agree: the same transactions, and blocks that agree. -/
structure Machine.Moved.SameButStale (m n : Moved) : Prop where
  made : m.made = n.made
  block : m.block.SameButStale n.block

/-- Two outcomes of the block's step agree: both stop alike, or both answer moves that agree. -/
inductive Machine.SameMove : Host.Outcome Moved Fault Refusal → Host.Outcome Moved Fault Refusal → Prop
  | next {m n : Moved} (h : m.SameButStale n) : SameMove (.next m) (.next n)
  | fault (f : Fault) : SameMove (.fault f) (.fault f)

namespace Machine.Block.SameButStale

variable {b c : Block}

theorem phase_eq (h : b.SameButStale c) : c.phase = b.phase := by cases h; rfl
theorem blockLen_eq (h : b.SameButStale c) : c.blockLen = b.blockLen := by cases h; rfl
theorem strongLen_eq (h : b.SameButStale c) : c.strongLen = b.strongLen := by cases h; rfl
theorem fill_eq (h : b.SameButStale c) : c.fill = b.fill := by cases h; rfl
theorem taken_eq (h : b.SameButStale c) : c.taken = b.taken := by cases h; rfl
theorem cmd_eq (h : b.SameButStale c) : c.cmd = b.cmd := by cases h; rfl

/-- The block being assembled is read below `fill` only. -/
theorem gathered_eq (h : b.SameButStale c) : c.gathered = b.gathered := by
  obtain ⟨w, m, agree⟩ := h
  exact Memory.readBytes_congr _ _ _ _ fun k _ hk => (agree k (by simpa using hk)).symm

/-! ### Updates -/

/-- An update that reads neither W nor BUF and writes neither of them nor `fill` keeps the agreement. -/
theorem map (h : b.SameButStale c) (f : Block → Block)
    (commutes : ∀ w m, f { b with w := w, buf := m } = { f b with w := w, buf := m })
    (buf : (f b).buf = b.buf) (fill : (f b).fill = b.fill) : (f b).SameButStale (f c) := by
  obtain ⟨w, m, agree⟩ := h
  rw [commutes w m]
  exact ⟨w, m, by rwa [buf, fill]⟩

theorem setPhase (h : b.SameButStale c) (p : Phase) : (b.setPhase p).SameButStale (c.setPhase p) :=
  h.map (·.setPhase p) (fun _ _ => rfl) rfl rfl

theorem setCmd (h : b.SameButStale c) (taken cmd : List Byte) :
    (b.setCmd taken cmd).SameButStale (c.setCmd taken cmd) :=
  h.map (·.setCmd taken cmd) (fun _ _ => rfl) rfl rfl

theorem startRun (h : b.SameButStale c) : b.startRun.SameButStale c.startRun :=
  h.map Block.startRun (fun _ _ => rfl) rfl rfl

theorem endRun (h : b.SameButStale c) : b.endRun.SameButStale c.endRun :=
  h.map Block.endRun (fun _ _ => rfl) rfl rfl

theorem raise (h : b.SameButStale c) (cause : Cause) (info : Word) :
    (b.raise cause info).SameButStale (c.raise cause info) :=
  h.map (·.raise cause info) (fun _ _ => by cases cause <;> rfl) (by simp) (by simp)

theorem setW (h : b.SameButStale c) (v : Window) : (b.setW v).SameButStale (c.setW v) := by
  obtain ⟨w, m, agree⟩ := h
  exact ⟨v, m, agree⟩

/-- A new block starts with no byte gathered, so all of BUF is stale. -/
theorem startBlock (h : b.SameButStale c) : b.startBlock.SameButStale c.startBlock := by
  obtain ⟨w, m, -⟩ := h
  exact ⟨w, m, fun a ha => absurd ha (Nat.not_lt_zero a)⟩

/-- Storing the same bytes at `fill` extends the agreement over them. -/
theorem storeBytes (h : b.SameButStale c) (hb : b.buf.wf = true) (hc : c.buf.wf = true) {bytes : List Byte}
    (fits : b.fill.toNat + bytes.length ≤ b.blockLen.toNat) : (b.storeBytes bytes).SameButStale (c.storeBytes bytes) := by
  obtain ⟨w, m, agree⟩ := h
  refine ⟨w, m.writeBytes b.fill.toNat bytes, fun a ha => ?_⟩
  rw [storeBytes_fill_toNat fits] at ha
  rw [Block.storeBytes_buf, Memory.read_writeBytes _ _ _ _ hb, Memory.read_writeBytes _ _ _ _ hc]
  split
  · rfl
  · exact agree a (by omega)

theorem checkAndStart (h : b.SameButStale c) : b.checkAndStart.SameButStale c.checkAndStart := by
  unfold Block.checkAndStart
  rw [h.blockLen_eq, h.strongLen_eq]
  split
  · exact h.startRun
  · exact h.raise _ _

theorem afterRecord (h : b.SameButStale c) : (afterRecord b).SameButStale (afterRecord c) := by
  unfold Machine.afterRecord
  rw [h.fill_eq, h.blockLen_eq]
  split
  · exact h.endRun
  · exact h.startBlock

theorem fillWith (h : b.SameButStale c) (hb : b.buf.wf = true) (hc : c.buf.wf = true) {bytes : List Byte}
    (fits : b.fill.toNat + bytes.length ≤ b.blockLen.toNat) : (fillWith b bytes).SameButStale (fillWith c bytes) := by
  unfold Machine.fillWith
  rw [h.fill_eq]
  split
  · split
    · exact h.endRun
    · exact h.setPhase _
  · exact h.storeBytes hb hc fits

/-! ### Ports -/

theorem holds (h : b.SameButStale c) : b.holds.SameButStale c.holds := ⟨rfl, h⟩

/-- A read under the same answers agrees, if what follows it does for every answer the read can get. -/
theorem readThen (h : b.SameButStale c) (a : Answers) (max : Word) {k l : List Byte → Block}
    (hk : ∀ bytes, bytes.length ≤ max.toNat → (k bytes).SameButStale (l bytes)) :
    (readThen a b max k).SameButStale (readThen a c max l) := by
  unfold Machine.readThen
  rcases a.src with _ | ⟨bytes⟩ | ⟨e⟩
  · exact h.holds
  · exact ⟨rfl, hk _ (List.length_take_le _ _)⟩
  · exact ⟨rfl, h.raise .srcReadError e⟩

/-- A write of the same bytes under the same answers agrees, if what follows it does. -/
theorem writeAfter (h : b.SameButStale c) (a : Answers) (before : List Transaction) (bytes : List Byte)
    {k l : Block → Block} (hk : (k b).SameButStale (l c)) :
    (writeAfter a b before bytes k).SameButStale (writeAfter a c before bytes l) := by
  unfold Machine.writeAfter
  rcases a.snk with _ | _ | ⟨e⟩
  · exact h.holds
  · exact ⟨rfl, hk⟩
  · exact ⟨rfl, h.raise .snkWriteError e⟩

/-! ### Actions and commands -/

theorem actHdr0 (h : b.SameButStale c) (a : Answers) : SameMove (actHdr0 a b) (actHdr0 a c) :=
  .next (h.writeAfter a [] _ (h.setPhase _))

theorem actHdr1 (h : b.SameButStale c) (a : Answers) : SameMove (actHdr1 a b) (actHdr1 a c) := by
  unfold Machine.actHdr1
  rw [h.blockLen_eq]
  exact .next (h.writeAfter a [] _ (h.setPhase _))

theorem actHdr2 (h : b.SameButStale c) (a : Answers) : SameMove (actHdr2 a b) (actHdr2 a c) := by
  unfold Machine.actHdr2
  rw [h.strongLen_eq]
  exact .next (h.writeAfter a [] _ h.startBlock)

/-- A read asks for the free space of BUF, so the bytes of its answer fit. -/
theorem actFill (h : b.SameButStale c) (hb : b.buf.wf = true) (hc : c.buf.wf = true) (a : Answers) :
    SameMove (actFill a b) (actFill a c) := by
  unfold Machine.actFill
  rw [h.fill_eq, h.blockLen_eq]
  refine .next ?_
  split
  next free =>
    refine h.readThen a _ fun bytes hlen => h.fillWith hb hc ?_
    rw [free_toNat _ _ free] at hlen
    omega
  next => exact ⟨rfl, h.setPhase _⟩

theorem actWeak (h : b.SameButStale c) (a : Answers) : SameMove (actWeak a b) (actWeak a c) := by
  unfold Machine.actWeak
  rw [h.fill_eq, h.blockLen_eq, h.gathered_eq]
  split
  · exact .fault _
  · exact .next (h.writeAfter a [] _ ((h.setW _).setPhase _))

theorem strongWith (h : b.SameButStale c) (a : Answers) (v : Vector Byte 32) :
    (strongWith a b v).SameButStale (strongWith a c v) := by
  unfold Machine.strongWith
  rw [h.strongLen_eq, h.gathered_eq]
  split
  · exact ⟨rfl, h.afterRecord⟩
  · exact h.writeAfter a _ _ h.afterRecord

theorem actStrong (h : b.SameButStale c) (a : Answers) : SameMove (actStrong a b) (actStrong a c) := by
  unfold Machine.actStrong
  rw [h.fill_eq, h.blockLen_eq, h.gathered_eq]
  split
  · exact .fault _
  · split
    · exact .next (h.strongWith a _)
    · exact .next h.holds

/-- A command reads and writes neither W, BUF nor `fill` (40_rwc_commands R110, 41_config_commands R140). -/
theorem run (h : b.SameButStale c) (i : Instr) : SameMove (b.run i) (c.run i) := by
  cases i
  case generate => exact .next ⟨rfl, h.checkAndStart⟩
  all_goals
    obtain ⟨w, m, agree⟩ := h
    exact .next ⟨rfl, w, m, agree⟩

/-- What is taken from CMD depends on the channel alone (20_memory R50). -/
theorem idleStep (h : b.SameButStale c) (hp : b.phase = .idle) (a : Answers) :
    SameMove (stepWith a b) (stepWith a c) := by
  unfold Machine.stepWith fetch
  rw [h.phase_eq, hp, h.taken_eq, h.cmd_eq]
  cases decode (b.taken ++ b.cmd) with
  | needHeader => exact .next h.holds
  | needPayload => exact .next (h.setCmd _ _).holds
  | illegal why info rest => exact .next ⟨rfl, (h.setCmd [] rest).raise .illegalCommand info⟩
  | command i rest => exact (h.setCmd [] rest).run i

/-- The block's step under the same answers agrees, phase by phase. -/
theorem stepWith (h : b.SameButStale c) (hb : b.buf.wf = true) (hc : c.buf.wf = true) (a : Answers) :
    SameMove (stepWith a b) (stepWith a c) := by
  cases hp : b.phase with
  | idle => exact h.idleStep hp a
  | hdr0 => simpa only [Machine.stepWith, h.phase_eq, hp] using h.actHdr0 a
  | hdr1 => simpa only [Machine.stepWith, h.phase_eq, hp] using h.actHdr1 a
  | hdr2 => simpa only [Machine.stepWith, h.phase_eq, hp] using h.actHdr2 a
  | fill => simpa only [Machine.stepWith, h.phase_eq, hp] using h.actFill hb hc a
  | weak => simpa only [Machine.stepWith, h.phase_eq, hp] using h.actWeak a
  | strong => simpa only [Machine.stepWith, h.phase_eq, hp] using h.actStrong a
  | fault => simpa only [Machine.stepWith, h.phase_eq, hp] using SameMove.next h.holds

end Machine.Block.SameButStale

/-! ### The closed machine -/

/-- States that agree are blocks that agree in the same environment. -/
theorem sameButStale_iff (s t : State) :
    sameButStale s t ↔ s.toBlock.SameButStale t.toBlock ∧ t.toEnvironment = s.toEnvironment := by
  constructor
  · rintro ⟨agree, e⟩
    rw [e]
    exact ⟨⟨_, _, agree⟩, rfl⟩
  · obtain ⟨c, env⟩ := t
    rintro ⟨⟨w, m, agree⟩, rfl⟩
    exact ⟨agree, rfl⟩

/-- Settles O53: the block's steps agree, and the environment is served the same transactions. -/
theorem staleStateIsInvisible : Obligations.StaleStateIsInvisible := by
  intro s t hs ht h
  obtain ⟨hblock, henv⟩ := (sameButStale_iff s t).1 h
  have hmove := hblock.stepWith hs ht s.answers
  unfold step
  rw [henv]
  generalize stepWith s.answers s.toBlock = x at hmove
  generalize stepWith s.answers t.toBlock = y at hmove
  cases hmove with
  | next hm => exact (sameButStale_iff _ _).2 ⟨hm.block, by simp only [State.settle_toEnvironment, hm.made, henv]⟩
  | fault f => rfl

end Sys2Proof
end

section
/-! PROOFS on the arrival of commands: a command decoded from what its encoder wrote, what more bytes leave of a decoding,
and an idle step by what the channel holds (20_memory R50, 30_encoding R80). -/

namespace Sys2Proof

open Machine

/-! ### Decoding a channel to which bytes are appended -/

/-- A well-formed command is decoded from its own bytes, whatever follows them (30_encoding R80, R85). -/
theorem decode_encode_append (i : Instr) (rest : List Byte) (hw : i.wellFormed = true) :
    decode (encode i ++ rest) = .command i rest := by
  rw [Instr.wellFormed_iff] at hw
  rw [encode, List.append_assoc, decode_bytes, decodeHeader_header]
  cases i
  case update payload =>
    have hlen : (BitVec.ofNat 32 payload.length).toNat = payload.length := by
      rw [BitVec.toNat_ofNat]
      exact Nat.mod_eq_of_lt hw
    simp [hlen, Instr.payload]
  all_goals rfl

/-- Bytes that arrive after a whole command are left after it. -/
theorem decode_append_of_command {bytes rest : List Byte} {i : Instr} (h : decode bytes = .command i rest)
    (more : List Byte) : decode (bytes ++ more) = .command i (rest ++ more) := by
  rcases decode_cases bytes with
    ⟨_, e⟩ | ⟨hd, tl, rfl, ⟨_, _, e⟩ | ⟨j, hj, e⟩ | ⟨_, _, _, e⟩ | ⟨len, payload, left, hlen, hp, rfl, e⟩⟩ <;>
    (rw [e] at h; cases h)
  · rw [List.append_assoc, decode_bytes, hj]
  · rw [List.append_assoc, decode_bytes, hlen]
    simp [← hp]

/-- Bytes that arrive after an illegal header leave it illegal. -/
theorem decode_append_of_illegal {bytes rest : List Byte} {why : IllegalHeader} {info : Word}
    (h : decode bytes = .illegal why info rest) (more : List Byte) :
    decode (bytes ++ more) = .illegal why info (rest ++ more) := by
  rcases decode_cases bytes with
    ⟨_, e⟩ | ⟨hd, tl, rfl, ⟨_, hj, e⟩ | ⟨_, _, e⟩ | ⟨_, _, _, e⟩ | ⟨_, _, _, _, _, _, e⟩⟩ <;>
    (rw [e] at h; cases h)
  rw [List.append_assoc, decode_bytes, hj]

/-- A proper first piece of a well-formed command is a command not yet whole: had it decoded to anything, the rest of the
command would be left over. -/
theorem decode_of_properPiece {i : Instr} {first second : List Byte} (hw : i.wellFormed = true)
    (cut : first ++ second = encode i) (more : second ≠ []) :
    decode first = .needHeader ∨ decode first = .needPayload := by
  have whole : decode (first ++ second) = .command i [] := by
    simpa [cut] using decode_encode_append i [] hw
  cases e : decode first with
  | needHeader => exact .inl rfl
  | needPayload => exact .inr rfl
  | illegal why info rest => simp [decode_append_of_illegal e] at whole
  | command j rest => simp [decode_append_of_command e, more] at whole

/-! ### An idle step, by what the channel holds -/

/-- Settles O8: of all an idle step can do, a whole command leaves its own run alone. -/
theorem stepRunsTheDecodedCommand : Obligations.StepRunsTheDecodedCommand := by
  intro s i rest hp h
  rcases step_idle_cases s hp with ⟨e, _⟩ | ⟨e, _⟩ | ⟨_, _, _, e, _⟩ | ⟨j, left, e, hstep⟩ <;>
    (rw [e] at h; cases h)
  exact hstep

/-- Settles O9: the encoder's bytes decode to the command, which an idle step then runs. -/
theorem stepRunsTheEncodedCommand : Obligations.StepRunsTheEncodedCommand := by
  intro s i rest hp hw h
  exact stepRunsTheDecodedCommand s i rest hp (h ▸ decode_encode_append i rest hw)

/-- On less than a header an idle block stays as it is (20_memory R50). -/
theorem step_of_needHeader {s : State} (hp : s.phase = .idle) (h : decode (s.taken ++ s.cmd) = .needHeader) :
    step s = .next s := by
  rcases step_idle_cases s hp with ⟨_, e⟩ | ⟨e, _⟩ | ⟨_, _, _, e, _⟩ | ⟨_, _, e, _⟩
  · exact e
  all_goals rw [e] at h; cases h

/-- On an UPDATE header without its whole payload an idle block takes the header from CMD (10_state R38, log 6). -/
theorem step_of_needPayload {s : State} (hp : s.phase = .idle) (h : decode (s.taken ++ s.cmd) = .needPayload) :
    step s = .next (s.withBlock (s.setCmd ((s.taken ++ s.cmd).take 8) ((s.taken ++ s.cmd).drop 8))) := by
  rcases step_idle_cases s hp with ⟨e, _⟩ | ⟨_, e⟩ | ⟨_, _, _, e, _⟩ | ⟨_, _, e, _⟩
  case inr.inl => exact e
  all_goals rw [e] at h; cases h

/-- On a command not yet whole an idle block moves at most the cut between the bytes taken and those on CMD, and then
stays (20_memory R50, log 6). -/
theorem step_of_partialCommand {s : State} (hp : s.phase = .idle)
    (h : decode (s.taken ++ s.cmd) = .needHeader ∨ decode (s.taken ++ s.cmd) = .needPayload) :
    ∃ taken cmd, taken ++ cmd = s.taken ++ s.cmd ∧ step s = .next (s.withBlock (s.setCmd taken cmd)) ∧
      step (s.withBlock (s.setCmd taken cmd)) = .next (s.withBlock (s.setCmd taken cmd)) := by
  rcases h with h | h
  · exact ⟨s.taken, s.cmd, rfl, step_of_needHeader hp h, step_of_needHeader hp h⟩
  · have same := List.take_append_drop 8 (s.taken ++ s.cmd)
    have again := step_of_needPayload
      (s := s.withBlock (s.setCmd ((s.taken ++ s.cmd).take 8) ((s.taken ++ s.cmd).drop 8))) hp
    simp only [State.withBlock_toBlock, Block.setCmd_taken, Block.setCmd_cmd, same] at again
    exact ⟨_, _, same, step_of_needPayload hp h, again h⟩

/-- Settles O11: only the cut between the bytes taken and those on CMD can move. -/
theorem partialCommandHasNoEffect : Obligations.PartialCommandHasNoEffect := by
  intro s hp h
  obtain ⟨taken, cmd, kept, hstep, stays⟩ := step_of_partialCommand hp h
  exact ⟨_, hstep, kept, rfl, stays⟩

/-- Settles O12: wherever the hold has put the cut, the rest of the command completes the same bytes. -/
theorem arrivalInPiecesIsInvisible : Obligations.ArrivalInPiecesIsInvisible := by
  intro s i first second hp hw hfirst cut more
  subst hfirst
  obtain ⟨taken, cmd, kept, hstep, _⟩ := step_of_partialCommand hp (decode_of_properPiece hw cut more)
  have run (u : State) (hu : u.phase = .idle) (same : u.taken ++ u.cmd = s.taken ++ s.cmd) :
      step (u.env (.cmdSend second)) = exec i { u with taken := [], cmd := [] } :=
    stepRunsTheEncodedCommand (u.env (.cmdSend second)) i [] hu hw
      (show u.taken ++ (u.cmd ++ second) = encode i ++ [] by rw [← List.append_assoc, same, cut, List.append_nil])
  have held := run (s.withBlock (s.setCmd taken cmd)) hp kept
  exact ⟨_, hstep, held.trans (run s hp rfl).symm, held⟩

end Sys2Proof
end

section
/-! PROOFS on the ports and the channels to the host: what the outside can do to the invariant, which steps push a response
word, and which transactions a step makes (20_memory R50 to R57, R65). -/

namespace Sys2Proof

open Machine

/-! ### What the outside does -/

/-- The invariant is the block's, and it reads neither CMD nor RSP. -/
theorem inv_of_sameBlock {s t : State} {cmd : List Byte} {rsp : List Word} (hs : Inv s)
    (eq : t.toBlock = { s.toBlock with cmd := cmd, rsp := rsp }) : Inv t := by
  obtain ⟨b, e⟩ := t
  subst eq
  cases hs
  constructor <;> assumption

/-- Settles O16: `rst` gives the block of the reset state, every other action leaves all of the block but CMD and RSP. -/
theorem environmentKeepsTheInvariant : Obligations.EnvironmentKeepsTheInvariant := by
  intro s a hs
  cases a with
  | rst => exact inv_of_sameBlock resetMeetsTheInvariant rfl
  | _ => exact inv_of_sameBlock hs rfl

/-! ### Response words -/

/-- GENERATE's start action pushes nothing, or the faulted STATUS (42_generate_pipeline R151, 60_exceptions R196). -/
theorem checkAndStart_rsp (b : Block) : b.checkAndStart.rsp = b.rsp ∨ ∃ word, b.checkAndStart.rsp = b.rsp ++ [word] := by
  unfold Block.checkAndStart
  split
  · exact .inl b.startRun_rsp
  · exact .inr ⟨_, b.raise_rsp_config _⟩

/-- A command pushes no response word, or one and is DIGEST, an RDREG or GENERATE (20_memory R51). -/
theorem exec_rsp {i : Instr} {s t : State} (h : exec i s = .next t) :
    t.rsp = s.rsp ∨ i ∈ responders ∧ ∃ word, t.rsp = s.rsp ++ [word] := by
  cases i <;> cases h
  case new | update | rollIn | rollOut | rotate | wrregBlockLen | wrregStrongLen => exact .inl rfl
  case generate => exact (checkAndStart_rsp s.toBlock).imp_right fun h => ⟨by decide, h⟩
  all_goals exact .inr ⟨by decide, _, rfl⟩

/-- A move of a run pushes no response word, or one as the run ends, in IDLE or in FAULT (20_memory R51). -/
theorem Machine.RunMove.rsp {b c : Block} (h : RunMove b c) :
    c.rsp = b.rsp ∨ ∃ word, c.rsp = b.rsp ++ [word] ∧ (c.phase = .idle ∨ c.phase = .fault) := by
  cases h with
  | srcError e => exact .inr ⟨_, b.raise_rsp_source e, .inr (b.raise_phase _ _)⟩
  | snkError e => exact .inr ⟨_, b.raise_rsp_sink e, .inr (b.raise_phase _ _)⟩
  | noBlock _ _ => exact .inr ⟨_, b.endRun_rsp, .inl rfl⟩
  | strongDone _ =>
    rcases afterRecord_cases b with e | e <;> rw [e]
    · exact .inr ⟨_, b.endRun_rsp, .inl rfl⟩
    · exact .inl rfl
  | _ => exact .inl rfl

/-- Settles O50: in IDLE only a command pushes, in a run only a move that ends it, in FAULT nothing does. -/
theorem responsesComeFromThreeCommands : Obligations.ResponsesComeFromThreeCommands := by
  intro s t h
  by_cases hi : s.phase = .idle
  · rcases step_idle_cases s hi with ⟨_, e⟩ | ⟨_, e⟩ | ⟨_, _, _, _, e⟩ | ⟨i, rest, hd, e⟩ <;> rw [e] at h
    case inr.inr.inr =>
      rcases exec_rsp h with same | ⟨hmem, word, pushed⟩
      · exact .inl same
      · exact .inr ⟨word, pushed, .inl ⟨hi, i, hmem, rest, hd⟩⟩
    all_goals cases h; exact .inl rfl
  by_cases hf : s.phase = .fault
  · rw [step_fault s hf] at h
    cases h; exact .inl rfl
  have hr := (Phase.running_iff _).2 ⟨hi, hf⟩
  exact (runMove_of_step hr h).rsp.imp_right fun ⟨word, pushed, ended⟩ => ⟨word, pushed, .inr ⟨hr, ended⟩⟩

/-! ### Transactions -/

/-- What a step can make of the closed machine, seen from the ports: no transaction, one on SRC or SNK with either
answer, or the hash of the block gathered and then, in the same step, what follows it (20_memory R65, R68). -/
inductive Machine.Traffic : State → State → Prop
  | silent (s : State) (b : Block) : Traffic s (s.withBlock b)
  | read (s : State) (q : List SrcAnswer) (bytes : List Byte) (b : Block) (free : s.fill.toNat < s.blockLen.toNat) :
      Traffic s (s.readData (s.blockLen - s.fill) q bytes b)
  | readFailed (s : State) (q : List SrcAnswer) (e : Word) (free : s.fill.toNat < s.blockLen.toNat) :
      Traffic s (s.readFailed (s.blockLen - s.fill) q e)
  | written (s : State) (q : List SnkAnswer) (bytes : List Byte) (b : Block) (nonempty : bytes ≠ []) :
      Traffic s { s with
        toBlock := b, snk := q, sink := s.sink ++ bytes, trace := s.trace ++ [.snkWrite bytes .ok] }
  | writeFailed (s : State) (q : List SnkAnswer) (bytes : List Byte) (e : Word) (nonempty : bytes ≠ []) :
      Traffic s (s.writeFailed q bytes e)
  | hashed (s t : State) (n : Nat) (h : s.phase = .strong) (next : Traffic (s.hashed n) t) : Traffic s t

/-- An action that is one write is silent, written or failed. -/
theorem traffic_of_write {s t : State} {bytes : List Byte} {k : Block → Block}
    (e : step s = .next (s.settle (writeThen s.answers s.toBlock bytes k))) (h : step s = .next t)
    (nonempty : bytes ≠ []) : Traffic s t := by
  obtain rfl : s.settle (writeThen s.answers s.toBlock bytes k) = t := by simpa [e] using h
  rcases settle_writeThen_cases s bytes k with ⟨_, h2⟩ | ⟨q, _, h2⟩ | ⟨err, q, _, h2⟩ <;> rw [h2]
  · exact .silent s s.toBlock
  · exact .written s q bytes _ nonempty
  · exact .writeFailed s q bytes err nonempty

/-- Four bytes are never none. -/
theorem be32_ne_nil (v : Word) : be32 v ≠ [] := List.cons_ne_nil _ _

/-- A strong digest has a byte unless `STRONG_LEN` is 0 (42_generate_pipeline R157). -/
theorem strongDigest_ne_nil {strongLen : Word} (h : strongLen ≠ 0#32) (block : List Byte) :
    strongDigest strongLen block ≠ [] := by
  have pos : 0 < strongLen.toNat := Nat.pos_of_ne_zero fun h0 => h (BitVec.eq_of_toNat_eq h0)
  refine List.ne_nil_of_length_pos ?_
  simp [strongDigest, hashPrefix, pos]

/-- An idle step changes the block alone: a command makes no transaction (40_rwc_commands R110, 41_config_commands R140,
42_generate_pipeline R151). -/
theorem idle_step_withBlock {s t : State} (hp : s.phase = .idle) (h : step s = .next t) : ∃ b, t = s.withBlock b := by
  rcases step_idle_cases s hp with ⟨_, e⟩ | ⟨_, e⟩ | ⟨_, _, _, _, e⟩ | ⟨i, rest, _, e⟩ <;> rw [e] at h
  case inr.inr.inr =>
    obtain ⟨c, hc⟩ := exec_answers_next i (s.withBlock (s.setCmd [] rest))
    rw [hc] at h
    cases h; exact ⟨c, rfl⟩
  all_goals cases h; exact ⟨_, rfl⟩

/-- Every step is traffic, phase by phase (42_generate_pipeline R152 to R159). -/
theorem traffic_of_step {s t : State} (h : step s = .next t) : Traffic s t := by
  cases hp : s.phase with
  | idle =>
    obtain ⟨b, rfl⟩ := idle_step_withBlock hp h
    exact .silent s b
  | hdr0 => exact traffic_of_write (step_hdr0 s hp) h (be32_ne_nil _)
  | hdr1 => exact traffic_of_write (step_hdr1 s hp) h (be32_ne_nil _)
  | hdr2 => exact traffic_of_write (step_hdr2 s hp) h (be32_ne_nil _)
  | fill =>
    rcases step_fill_cases s hp with
      ⟨_, e⟩ | ⟨free, ⟨_, e⟩ | ⟨q, _, e⟩ | ⟨bytes, q, _, _, e⟩ | ⟨err, q, _, e⟩⟩ <;>
      (rw [e] at h; cases h)
    · exact .silent s _
    · exact .silent s s.toBlock
    · exact .read s q [] _ free
    · exact .read s q bytes _ free
    · exact .readFailed s q err free
  | weak =>
    rcases step_weak_cases s hp with ⟨_, e⟩ | ⟨_, e⟩
    · simp [e] at h
    · exact traffic_of_write e h (be32_ne_nil _)
  | strong =>
    rcases step_strong_cases s hp with
      ⟨_, e⟩ | ⟨_, ⟨_, e⟩ | ⟨n, _, ⟨_, e⟩ | ⟨hz, ⟨_, e⟩ | ⟨q, _, e⟩ | ⟨err, q, _, e⟩⟩⟩⟩ <;>
      (rw [e] at h; cases h)
    · exact .silent s s.toBlock
    · exact .hashed s _ n hp (.silent _ _)
    · exact .silent s s.toBlock
    · exact .hashed s _ n hp (.written _ q _ _ (strongDigest_ne_nil hz _))
    · exact .hashed s _ n hp (.writeFailed _ q _ err (strongDigest_ne_nil hz _))
  | fault =>
    rw [step_fault s hp] at h
    cases h; exact .silent s s.toBlock

/-- The sink grows or is lost to an I/O error (20_memory R55, R56). -/
theorem Machine.Traffic.sink {s t : State} (h : Traffic s t) :
    (∃ bytes, t.sink = s.sink ++ bytes) ∨
      (t.phase = .fault ∧ (t.status.cause = .srcReadError ∨ t.status.cause = .snkWriteError)) := by
  induction h with
  | silent s b => exact .inl ⟨[], (List.append_nil _).symm⟩
  | read s q bytes b _ => exact .inl ⟨[], (List.append_nil _).symm⟩
  | readFailed s q e _ => exact .inr ⟨rfl, .inl rfl⟩
  | written s q bytes b _ => exact .inl ⟨bytes, rfl⟩
  | writeFailed s q bytes e _ => exact .inr ⟨rfl, .inr rfl⟩
  | hashed s t n _ _ ih => exact ih

/-- Settles O51: the sink grows by what a write puts on it, and only an `Err` loses it. -/
theorem sinkIsAppendOnly : Obligations.SinkIsAppendOnly := fun _ _ h => (traffic_of_step h).sink

/-- A read asks for the free space of BUF, which is at least one byte and at most `BLOCK_LEN` (20_memory R52). -/
theorem free_legal {blockLen fill : Word} (free : fill.toNat < blockLen.toNat) :
    1 ≤ (blockLen - fill).toNat ∧ (blockLen - fill).toNat ≤ blockLen.toNat := by
  rw [free_toNat _ _ free]
  omega

/-- The transactions of a step, when the block to be hashed is neither empty nor over-long. -/
theorem Machine.Traffic.made {s t : State} (h : Traffic s t)
    (block : s.phase = .strong → 1 ≤ s.fill.toNat ∧ s.fill.toNat ≤ s.blockLen.toNat) :
    ∃ made : List Transaction, t.trace = s.trace ++ made ∧ (∀ x ∈ made, legalTransaction s.blockLen x) ∧
      (made.filter Transaction.onStream).length ≤ 1 := by
  induction h with
  | silent s b => exact ⟨[], (List.append_nil _).symm, nofun, Nat.zero_le _⟩
  | read s q bytes b free =>
    obtain ⟨pos, le⟩ := free_legal free
    exact ⟨_, rfl, List.forall_mem_singleton.2 ⟨pos, le, List.length_take_le _ _⟩, le_refl _⟩
  | readFailed s q e free => exact ⟨_, rfl, List.forall_mem_singleton.2 (free_legal free), le_refl _⟩
  | written s q bytes b nonempty =>
    exact ⟨_, rfl, List.forall_mem_singleton.2 (List.length_pos_of_ne_nil nonempty), le_refl _⟩
  | writeFailed s q bytes e nonempty =>
    exact ⟨_, rfl, List.forall_mem_singleton.2 (List.length_pos_of_ne_nil nonempty), le_refl _⟩
  | hashed s t n hp _ ih =>
    obtain ⟨made, trace, legal, one⟩ := ih block
    refine ⟨.hash s.gathered :: made, ?_, List.forall_mem_cons.2 ⟨?_, legal⟩, one⟩
    · rw [trace]
      exact List.append_assoc _ _ _
    · simpa [legalTransaction] using block hp

/-- Settles O52: the invariant bounds the block that STRONG hashes. -/
theorem portTransactionsAreLegal : Obligations.PortTransactionsAreLegal :=
  fun _ _ hs h => (traffic_of_step h).made fun hp => hs.blockBound (.inr hp)

end Sys2Proof
end

section
/-! PROOFS on the blocks of an input, the header of a signature and the source's answers (20_memory R54, R60, R62). -/

namespace Sys2Proof

open Machine

/-! ### Blocks -/

/-- An empty input has no block (42_generate_pipeline R162). -/
theorem blocksOf_nil {blockLen : Nat} (h : 0 < blockLen) : blocksOf blockLen [] = [] := by
  simp [blocksOf, blockCount_zero h]

/-- An input of at most one block is its only block (20_memory R62). -/
theorem blocksOf_singleton {blockLen : Nat} {x : List Byte} (nonempty : x ≠ []) (le : x.length ≤ blockLen) :
    blocksOf blockLen x = [x] := by
  simp [blocksOf, blockCount_one (List.length_pos_of_ne_nil nonempty) le, blockAt, List.take_of_length_le le]

/-- The blocks, one after the other, are the input: block after block is taken off its front. -/
theorem blocksOf_flatten {blockLen : Nat} (h : 0 < blockLen) (x : List Byte) : (blocksOf blockLen x).flatten = x := by
  induction hn : x.length using Nat.strong_induction_on generalizing x with
  | _ n ih =>
    subst hn
    by_cases hx : x = []
    · simp [hx, blocksOf_nil h]
    by_cases le : blockLen ≤ x.length
    · rw [blocksOf_cons x h le, List.flatten_cons, ih _ (by rw [List.length_drop]; omega) _ rfl, List.take_append_drop]
    · simp [blocksOf_singleton hx (Nat.le_of_not_le le)]

/-- A block of the input has at least one byte and at most `BLOCK_LEN` (20_memory R62). -/
theorem blockAt_length_bounds {blockLen : Nat} {x : List Byte} {k : Nat} (h : 0 < blockLen)
    (hk : k < blockCount blockLen x.length) :
    1 ≤ (blockAt blockLen x k).length ∧ (blockAt blockLen x k).length ≤ blockLen := by
  have first := (lt_blockCount h _ _).1 hk
  rw [blockAt_length]
  omega

/-- A block after which another begins is full (20_memory R62). -/
theorem blockAt_length_of_succ_lt {blockLen : Nat} {x : List Byte} {k : Nat} (h : 0 < blockLen)
    (hk : k + 1 < blockCount blockLen x.length) : (blockAt blockLen x k).length = blockLen := by
  have next := (lt_blockCount h _ _).1 hk
  rw [Nat.succ_mul] at next
  rw [blockAt_length]
  omega

/-- Settles O55: a block is a piece of the input at a multiple of `BLOCK_LEN`. -/
theorem blocksPartitionTheInput : Obligations.BlocksPartitionTheInput := by
  intro blockLen x h
  refine ⟨blocksOf_flatten h x, fun b hb => ?_, fun k hk => blockAt_length_of_succ_lt h hk⟩
  obtain ⟨k, hk, rfl⟩ := List.mem_map.1 hb
  exact blockAt_length_bounds h (List.mem_range.1 hk)

/-- Settles O57: the three registers' bytes are evaluated; an empty input has no block and so no record. -/
theorem defaultHeaderBytes : Obligations.DefaultHeaderBytes := by
  refine ⟨by decide, fun blockLen strongLen h => ?_⟩
  rw [signature, blocksOf_nil h, List.flatMap_nil, List.append_nil]

/-! ### The source -/

/-- Answers of zero bytes deliver no byte. -/
theorem srcBytes_eq_nil {q : List SrcAnswer} (h : ∀ a ∈ q, a = .data []) : srcBytes q = [] := by
  induction q with
  | nil => rfl
  | cons a q ih =>
    obtain ⟨rfl, hq⟩ := List.forall_mem_cons.1 h
    exact ih hq

/-- Settles O58, by induction on the chunks: each is delivered, and after the zero-length answer no byte is. -/
theorem exhaustedSourceDeliversTheWholeInput : Obligations.ExhaustedSourceDeliversTheWholeInput := by
  rintro _ chunks srcRest hq chunksFull rfl
  induction chunks with
  | nil => exact srcBytes_eq_nil (q := srcRest) hq
  | cons c chunks ih =>
    obtain ⟨hc, hchunks⟩ := List.forall_mem_cons.1 chunksFull
    obtain ⟨b, bs, rfl⟩ := List.exists_cons_of_ne_nil hc
    exact congrArg ((b :: bs) ++ ·) (ih hchunks hq)

end Sys2Proof
end

section
/-! PROOFS of the family of the encoding: the two round trips, framing, and the opcode table, whose rows select a header
exactly when it decodes to a command of the row's name (30_encoding R80 to R96). -/

namespace Sys2Proof

open Machine

/-! ### The round trips -/

/-- Settles O1: the header says the command and, for UPDATE, how many of the bytes after it are the payload's. -/
theorem decodeOfEncode : Obligations.DecodeOfEncode := decode_encode_append

/-- A header that announces as many bytes as a payload has is that UPDATE's (30_encoding R82, R84). -/
theorem header_update_of_updateHeader {h : Header} {payload : List Byte}
    (e : decodeHeader h = .updateHeader (BitVec.ofNat 32 payload.length)) : (Instr.update payload).header = h :=
  (header_of_updateHeader e).symm

/-- Settles O2: a command is read from its header alone, or from UPDATE's header and the payload it counts. -/
theorem encodeOfDecode : Obligations.EncodeOfDecode := by
  intro bytes i rest h
  rcases decode_cases bytes with
    ⟨_, e⟩ | ⟨hd, tl, rfl, ⟨_, _, e⟩ | ⟨j, hj, e⟩ | ⟨_, _, _, e⟩ | ⟨len, payload, more, hlen, hp, rfl, e⟩⟩ <;>
    (rw [e] at h; cases h)
  · obtain ⟨hheader, hpayload⟩ := header_of_command hj
    rw [encode, Instr.wellFormed_iff, hheader, hpayload]
    exact ⟨by simp, by simp⟩
  · have count : len = BitVec.ofNat 32 payload.length := by rw [hp, BitVec.ofNat_toNat, BitVec.setWidth_eq]
    rw [encode, Instr.wellFormed_iff, header_update_of_updateHeader (count ▸ hlen)]
    exact ⟨(List.append_assoc ..).symm, hp ▸ len.isLt⟩

/-- Settles O3: a command's header, and UPDATE's header with its length, are each the only one with their decoding. -/
theorem headerDecodingIsInjective : Obligations.HeaderDecodingIsInjective := by
  refine ⟨fun h k legal same => ?_, fun h i e => ?_, fun h payload e => ?_⟩
  · cases e : decodeHeader h with
    | illegal why => exact absurd e (legal why)
    | command i => exact (header_of_command e).1.symm.trans (header_of_command (same ▸ e)).1
    | updateHeader len => exact (header_of_updateHeader e).trans (header_of_updateHeader (same ▸ e)).symm
  · obtain ⟨hheader, hpayload⟩ := header_of_command e
    rw [encode, hheader, hpayload, List.append_nil]
  · rw [encode, header_update_of_updateHeader e, Instr.payload]

/-- Settles O6: the eight bytes are the header's, and what follows them is read by what the header says. -/
theorem commandFraming : Obligations.CommandFraming := by
  intro v rest
  simp only [headerOfBits_bytes, decode_bytes]
  refine ⟨fun why e => ?_, fun i e => ?_, fun len e => ⟨?_, fun few => ?_, ?_⟩, decode_short⟩
  · rw [e, Header.info_eq, toBits_headerOfBits]
  · rw [e]
  · exact (congrArg Header.imm (header_of_updateHeader e)).symm
  · simp only [e, few, if_true]
  · rintro payload more rfl whole
    simp [e, ← whole]

/-! ### The opcode table -/

/-- A row selects a header field by field (30_encoding R84). -/
theorem TableRow.selects_iff (row : TableRow) (h : Header) :
    row.selects h.toBits = true ↔
      h.opc &&& row.mask.extractLsb' 56 8 = row.pattern.extractLsb' 56 8 ∧
      h.a &&& row.mask.extractLsb' 48 8 = row.pattern.extractLsb' 48 8 ∧
      h.b &&& row.mask.extractLsb' 40 8 = row.pattern.extractLsb' 40 8 ∧
      h.z &&& row.mask.extractLsb' 32 8 = row.pattern.extractLsb' 32 8 ∧
      h.imm &&& row.mask.extractLsb' 0 32 = row.pattern.extractLsb' 0 32 := by
  have fields := Header.masked_iff h (headerOfBits row.mask) (headerOfBits row.pattern)
  rw [toBits_headerOfBits, toBits_headerOfBits] at fields
  rw [TableRow.selects, beq_iff_eq]
  exact fields

/-- A mask of ones keeps a byte. -/
theorem byte_and_ones (b : Byte) : b &&& 0xFF#8 = b := BitVec.and_allOnes

/-- A mask of ones keeps a word. -/
theorem word_and_ones (w : Word) : w &&& 0xFFFFFFFF#32 = w := BitVec.and_allOnes

/-- A header has a mnemonic exactly when it is the header of a command of that name (30_encoding R84). -/
theorem mnemonic?_eq_some_iff (h : Header) (m : String) :
    (decodeHeader h).mnemonic? = some m ↔ ∃ i : Instr, i.header = h ∧ i.mnemonic = m := by
  constructor
  · intro e
    cases hd : decodeHeader h with
    | illegal why => rw [hd] at e; exact nomatch e
    | command i =>
      rw [hd] at e
      exact ⟨i, (header_of_command hd).1, Option.some.inj e⟩
    | updateHeader len =>
      rw [hd] at e
      exact ⟨.update (List.replicate len.toNat 0#8), header_update_of_updateHeader (by simpa using hd), Option.some.inj e⟩
  · rintro ⟨i, rfl, rfl⟩
    rw [decodeHeader_header]
    cases i <;> rfl

/-- The row of a command's name selects the command's header. -/
theorem selects_header (i : Instr) :
    ∀ row ∈ opcodeTable, i.mnemonic = row.mnemonic → row.selects i.header.toBits = true := by
  simp only [opcodeTable, opcodeTableWindow, opcodeTableRegister, List.cons_append, List.nil_append,
    List.forall_mem_cons]
  -- The names leave one row for each command.
  cases i <;>
  · simp only [Instr.mnemonic, String.reduceEq, false_imp_iff, true_imp_iff, true_and, List.not_mem_nil,
      implies_true, and_true]
    simp [TableRow.selects_iff, Instr.header, Opcode.code, Csr.number, byte_and_ones]

/-- A row that selects a header names what the header decodes to: the bits the row fixes pin all that the decoder reads. -/
theorem mnemonic?_of_selects (h : Header) :
    ∀ row ∈ opcodeTable, row.selects h.toBits = true → (decodeHeader h).mnemonic? = some row.mnemonic := by
  obtain ⟨opc, a, b, z, imm⟩ := h
  simp only [opcodeTable, opcodeTableWindow, opcodeTableRegister, List.cons_append, List.nil_append,
    List.forall_mem_cons, TableRow.selects_iff]
  refine ⟨?_, ?_, ?_, ?_, ?_, ?_, ?_, ?_, ?_, ?_, ?_, ?_, ?_, ?_, ?_, ?_, ?_, List.forall_mem_nil _⟩ <;>
  · simp only [BitVec.reduceExtractLsb', byte_and_ones, word_and_ones, BitVec.and_zero]
    rintro ⟨hopc, ha, hb, hz, himm⟩
    subst_vars
    rfl

/-- A row selects a header exactly when the header decodes to a command of the row's name (30_encoding R84). -/
theorem selects_iff_mnemonic? {row : TableRow} (hrow : row ∈ opcodeTable) (h : Header) :
    row.selects h.toBits = true ↔ (decodeHeader h).mnemonic? = some row.mnemonic := by
  refine ⟨mnemonic?_of_selects h row hrow, fun e => ?_⟩
  obtain ⟨i, rfl, name⟩ := (mnemonic?_eq_some_iff h row.mnemonic).1 e
  exact selects_header i row hrow name

/-- Every command has a row (30_encoding R84). -/
theorem exists_row (i : Instr) : ∃ row ∈ opcodeTable, row.mnemonic = i.mnemonic := by
  cases i <;> simp [opcodeTable, opcodeTableWindow, opcodeTableRegister, Instr.mnemonic]

/-- A header is illegal exactly when it has no mnemonic. -/
theorem mnemonic?_eq_none_iff (d : HeaderDecoded) : d.mnemonic? = none ↔ ∃ why, d = .illegal why := by
  cases d <;> simp [HeaderDecoded.mnemonic?]

/-- A header is illegal exactly when it selects no row (30_encoding R90). -/
theorem illegal_iff_no_row (h : Header) :
    (∃ why, decodeHeader h = .illegal why) ↔ ∀ row ∈ opcodeTable, row.selects h.toBits = false := by
  rw [← mnemonic?_eq_none_iff]
  constructor
  · intro unnamed row hrow
    rw [Bool.eq_false_iff, ne_eq, selects_iff_mnemonic? hrow, unnamed]
    exact Option.some_ne_none _ ∘ Eq.symm
  · intro unselected
    by_contra named
    obtain ⟨m, hm⟩ := Option.ne_none_iff_exists'.1 named
    obtain ⟨i, _, rfl⟩ := (mnemonic?_eq_some_iff h m).1 hm
    obtain ⟨row, hrow, name⟩ := exists_row i
    rw [← name, ← selects_iff_mnemonic? hrow, unselected row hrow] at hm
    exact Bool.false_ne_true hm

/-- No two rows have one name. -/
theorem opcodeTable_names_differ : opcodeTable.Pairwise (fun p q => p.mnemonic ≠ q.mnemonic) := by decide

/-- Settles O5: rows that select one header have the mnemonic it decodes to, and no two rows have the same. -/
theorem opcodeTableDecidesDecoding : Obligations.OpcodeTableDecidesDecoding := by
  have selects {row : TableRow} (hrow : row ∈ opcodeTable) (v : BitVec 64) :
      row.selects v = true ↔ (decodeHeader (headerOfBits v)).mnemonic? = some row.mnemonic := by
    rw [← selects_iff_mnemonic? hrow, toBits_headerOfBits]
  refine ⟨fun v row hrow => (selects hrow v).1, fun v unselected => ?_, ?_⟩
  · rw [illegal_iff_no_row, toBits_headerOfBits]
    exact unselected
  · refine opcodeTable_names_differ.imp_of_mem fun hp hq differ v ⟨hpv, hqv⟩ => differ ?_
    exact Option.some.inj (((selects hp v).1 hpv).symm.trans ((selects hq v).1 hqv))

/-! ### The items of R90 -/

/-- The opcode bytes assigned (30_encoding R84). -/
theorem opcodeOf_eq_none_iff (c : Byte) :
    opcodeOf c = none ↔ c ∉ [0x01#8, 0x02#8, 0x03#8, 0x04#8, 0x05#8, 0x06#8, 0x10#8, 0x11#8, 0x20#8] := by
  simp [opcodeOf, ite_eq_iff]

/-- The register numbers assigned (10_state R29). -/
theorem csrOf_eq_none_iff (n : Byte) :
    csrOf n = none ↔ n ∉ [0x00#8, 0x01#8, 0x02#8, 0x03#8, 0x04#8, 0x10#8, 0x11#8, 0x12#8] := by
  simp [csrOf, ite_eq_iff]

/-- What makes a header illegal, by its opcode: none, `Z`, a field its format does not use, or its operands
(30_encoding R90). -/
theorem decodeHeader_illegal_iff (h : Header) :
    (∃ why, decodeHeader h = .illegal why) ↔
      opcodeOf h.opc = none ∨ h.z ≠ 0#8 ∨
        ∃ o, opcodeOf h.opc = some o ∧ (o.format.unusedZero h = false ∨ ∃ why, operandsOf o h = .illegal why) := by
  unfold decodeHeader
  cases opcodeOf h.opc with
  | none => simp
  | some o =>
    by_cases hz : h.z = 0#8
    · cases hu : o.format.unusedZero h <;> simp [hz, hu]
    · simp [hz]

/-- WRREG's operands are illegal exactly when the register is not one of the two writable ones (30_encoding R92). -/
theorem operandsOf_wrreg_illegal_iff (h : Header) :
    (∃ why, operandsOf .wrreg h = .illegal why) ↔ h.a ∉ [0x01#8, 0x02#8] := by
  cases hr : csrOf h.a with
  | none =>
    have unassigned := (csrOf_eq_none_iff h.a).1 hr
    simp_all [operandsOf]
  | some r =>
    rw [number_of_csrOf hr]
    cases r <;> simp [operandsOf, hr, wrregOf, Csr.number]

/-- The operands of every other command are legal (30_encoding R90, items 4 and 5). -/
theorem operandsOf_ne_illegal {o : Opcode} (hw : o ≠ .wrreg) (hr : o ≠ .rdreg) (h : Header) (why : IllegalHeader) :
    operandsOf o h ≠ .illegal why := by
  cases o <;> simp_all [operandsOf]

/-- RDREG's operands are illegal exactly when the register does not exist (30_encoding R92). -/
theorem operandsOf_rdreg_illegal_iff (h : Header) :
    (∃ why, operandsOf .rdreg h = .illegal why) ↔
      h.a ∉ [0x00#8, 0x01#8, 0x02#8, 0x03#8, 0x04#8, 0x10#8, 0x11#8, 0x12#8] := by
  rw [← csrOf_eq_none_iff, operandsOf]
  cases csrOf h.a <;> simp

/-- Settles O4: past `OPC` and `Z`, each opcode's format and operands say which items are left. -/
theorem illegalHeaderItems : Obligations.IllegalHeaderItems := by
  intro h
  refine ⟨illegal_iff_no_row h, ?_⟩
  rw [decodeHeader_illegal_iff, opcodeOf_eq_none_iff]
  refine or_congr_right (or_congr_right ?_)
  cases ho : opcodeOf h.opc with
  | none =>
    have unassigned := (opcodeOf_eq_none_iff h.opc).1 ho
    simp_all
  | some o =>
    rw [code_of_opcodeOf ho]
    cases o <;>
      simp [Opcode.code, Opcode.format, Format.unusedZero, operandsOf_ne_illegal, operandsOf_wrreg_illegal_iff,
        operandsOf_rdreg_illegal_iff, imp_iff_not_or, or_assoc]

/-! ### Worked encodings, illegal headers, single commands -/

/-- Settles O7: six of the words are what the encoder writes; the seventh is decoded. -/
theorem workedEncodingsDecode : Obligations.WorkedEncodingsDecode :=
  ⟨decodeOfEncode .new [] rfl, decodeOfEncode (.update [0x61#8, 0x62#8, 0x63#8]) [] rfl,
    decodeOfEncode (.rotate 0x41#8 0x7A#8) [] rfl, decodeOfEncode (.wrregBlockLen 4#32) [] rfl,
    decodeOfEncode .rdregCount [] rfl, decodeOfEncode .generate [] rfl, rfl⟩

/-- On an illegal header an idle block takes its eight bytes and enters the fault state (30_encoding R91). -/
theorem step_of_illegal {s : State} {why : IllegalHeader} {info : Word} {rest : List Byte} (hp : s.phase = .idle)
    (h : decode (s.taken ++ s.cmd) = .illegal why info rest) :
    step s = .next (s.withBlock ((s.setCmd [] rest).raise .illegalCommand info)) := by
  rcases step_idle_cases s hp with ⟨e, _⟩ | ⟨e, _⟩ | ⟨_, _, _, e, hstep⟩ | ⟨_, _, e, _⟩ <;>
    (rw [e] at h; cases h)
  exact hstep

/-- Settles O10: the frame is that of `raise`, and the word of the status it leaves is evaluated. -/
theorem illegalHeaderEntersFault : Obligations.IllegalHeaderEntersFault := by
  intro s h why rest hp front e
  have whole : decode (s.taken ++ s.cmd) = .illegal why h.info rest := by rw [front, decode_bytes, e]
  refine ⟨_, step_of_illegal hp whole, step_fault _ rfl, ?_, ?_⟩
  · exact (by decide : Status.word { fault := true, done := false, cause := .illegalCommand } = 0x00000101#32)
  · rw [Header.info_eq]
    rfl

/-- Settles O25: the empty payload is UPDATE's with `LEN = 0`, and UPDATE with it leaves the window. -/
theorem emptyUpdateChangesNothing : Obligations.EmptyUpdateChangesNothing := by
  refine ⟨fun rest => decodeOfEncode (.update []) rest rfl, fun s => ?_⟩
  rw [exec, execUpdate, Window.update_nil]
  rfl

/-- Settles O33: FRESH digests the window that UPDATE makes of the zero state. -/
theorem pseudoCommandExpansions : Obligations.PseudoCommandExpansions := fun _ bytes _ _ =>
  ⟨rfl, rfl, ⟨_, rfl, rfl, (represents_iff _ bytes).2 rfl⟩, rfl⟩

end Sys2Proof
end

section
/-! PROOFS of the family of the window commands: what each leaves in R as numbers modulo 2^16, the laws that join them, and
the known vector (40_rwc_commands R110 to R130). -/

namespace Sys2Proof

open Machine

/-! ### A register as a number -/

/-- A register that is the image of an integer holds it reduced modulo 2^16. -/
theorem toNat_of_eq_intCast {x : Half} {z : Int} (h : x = (z : Half)) : (x.toNat : Int) = z % 65536 := by
  rw [h, show (z : Half) = BitVec.ofInt 16 z from rfl, BitVec.toNat_ofInt]
  omega

/-- A register is the image of a natural number exactly when it holds it reduced modulo 2^16. -/
theorem eq_natCast_iff {x : Half} {n : Nat} : x = (n : Half) ↔ x.toNat = n % 65536 := by
  rw [BitVec.toNat_eq, BitVec.natCast_eq_ofNat, BitVec.toNat_ofNat]

/-- `zext_16(c) + 31`, as the image of a number. -/
theorem Machine.weighted_eq_natCast (c : Byte) : weighted c = ((c.toNat + 31 : Nat) : Half) := by
  rw [weighted_eq, BitVec.natCast_eq_ofNat]

/-- No two bytes weigh the same: the weight is from 31 to 286 (40_rwc_commands R111). -/
theorem Machine.weighted_inj {a b : Byte} : weighted a = weighted b ↔ a = b := by
  refine ⟨fun h => ?_, congrArg _⟩
  rw [weighted_eq, weighted_eq, BitVec.toNat_eq, BitVec.toNat_ofNat, BitVec.toNat_ofNat] at h
  exact BitVec.eq_of_toNat_eq (by omega)

/-- A digest, as a number (10_state R24). -/
theorem Machine.Window.digest_toNat (v : Window) : v.digest.toNat = v.s2.toNat * 65536 + v.s1.toNat := by
  rw [Window.digest, BitVec.toNat_append, ← Nat.shiftLeft_add_eq_or_of_lt v.s1.isLt, Nat.shiftLeft_eq]

/-! ### The commands on R -/

/-- Settles O19: NEW writes R alone. -/
theorem newGivesTheZeroState : Obligations.NewGivesTheZeroState := ⟨rfl, fun _ => rfl⟩

/-- Settles O32: five of the commands write R, DIGEST pushes a word. -/
theorem windowCommandsActOnTheWindow : Obligations.WindowCommandsActOnTheWindow := by
  intro s payload cOut cIn i hi
  simp only [List.mem_cons, List.not_mem_nil, or_false] at hi
  obtain rfl | rfl | rfl | rfl | rfl | rfl := hi
  case inr.inr.inr.inr.inr => exact ⟨_, rfl, rfl, fun h => absurd rfl h, fun _ => rfl⟩
  all_goals exact ⟨_, rfl, rfl, fun _ => rfl, nofun⟩

/-- Settles O26: the word is the digest as a number, which is 0 for two zero sums. -/
theorem digestPushesTheDigest : Obligations.DigestPushesTheDigest := by
  refine ⟨rfl, fun s => ⟨s.r.digest, rfl, s.r.digest_toNat, fun zero => ?_⟩⟩
  rw [zero]
  rfl

/-- The bytes of a command with neither immediate nor payload (30_encoding R80, R81). -/
theorem encode_of_header {i : Instr} {opc a b : Byte}
    (hheader : i.header = { opc := opc, a := a, b := b, z := 0#8, imm := 0#32 }) (hpayload : i.payload = []) :
    encode i = [opc, a, b, 0#8, 0#8, 0#8, 0#8, 0#8] := by
  rw [encode, hheader, hpayload, List.append_nil]
  exact congrArg (opc :: a :: b :: 0#8 :: ·) (by decide : be32 0#32 = _)

/-- Settles O20: each register is a sum of numbers, reduced. -/
theorem rollInResult : Obligations.RollInResult := by
  refine fun s cIn => ⟨encode_of_header rfl rfl, s.withBlock (s.setR (s.r.rollIn cIn)), rfl, rfl, ?_,
    BitVec.toNat_add _ _, BitVec.toNat_add _ _⟩
  simp [Window.rollIn, weighted_eq, Nat.add_comm 31]

/-- Settles O21: each register is the image of the rule's integer. -/
theorem rollOutResult : Obligations.RollOutResult := by
  refine fun s cOut => ⟨encode_of_header rfl rfl, s.withBlock (s.setR (s.r.rollOut cOut)), rfl, rfl, ?_, ?_, ?_⟩ <;>
    apply toNat_of_eq_intCast
  · simp [Window.rollOut, weighted_eq_natCast]
  · simp [Window.rollOut, weighted_eq_natCast]
  · simp [Window.rollOut]

/-- The new `s1` is in the `s2` of ROTATE (40_rwc_commands R120). -/
theorem Machine.Window.rotate_s2 (v : Window) (cOut cIn : Byte) :
    (v.rotate cOut cIn).s2 = v.s2 + (v.rotate cOut cIn).s1 - v.count * weighted cOut := rfl

/-- Settles O22: each sum is the image of the rule's integer, `s2` with the new `s1` in it. -/
theorem rotateResult : Obligations.RotateResult := by
  refine fun s cOut cIn => ⟨encode_of_header rfl rfl, s.withBlock (s.setR (s.r.rotate cOut cIn)), rfl, rfl, ?_, ?_,
    rfl⟩ <;> apply toNat_of_eq_intCast
  · simp [Window.rotate, zext16_eq, BitVec.natCast_eq_ofNat]
  · simp [Window.rotate_s2, weighted_eq_natCast]

/-! ### UPDATE -/

/-- A payload's ROLL_INs, one after another, are UPDATE of the payload (40_rwc_commands R115). -/
theorem execAll_map_rollIn (payload : List Byte) (s : State) :
    execAll (payload.map Instr.rollIn) s = exec (.update payload) s := by
  induction payload generalizing s with
  | nil => exact (emptyUpdateChangesNothing.2 s).symm
  | cons b bs ih =>
    change execAll (bs.map Instr.rollIn) (s.withBlock (s.setR (s.r.rollIn b))) = _
    rw [ih, exec, exec, execUpdate, execUpdate, Window.update_cons]
    rfl

/-- Settles O23: the ROLL_INs by induction on the payload, the numbers from UPDATE's closed form. -/
theorem updateResult : Obligations.UpdateResult := by
  refine fun s payload => ⟨rfl, s.withBlock (s.setR (s.r.update payload)), rfl, rfl, execAll_map_rollIn payload s,
    ?_, ?_, ?_⟩
  · simp [Window.update_closed, Nat.add_assoc]
  · simp [Window.update_closed, Nat.add_assoc]
  · simp [Window.update_closed]

/-- Settles O24: UPDATE of one string after another is UPDATE of both. -/
theorem updateIsAdditive : Obligations.UpdateIsAdditive := by
  intro s buffer k _
  conv_lhs => rw [← List.take_append_drop k buffer, exec, execUpdate, ← Window.update_append]
  rfl

/-! ### Pairs of commands -/

/-- ROLL_IN then ROLL_OUT of one byte: what is left in `s2` (40_rwc_commands R125, 90 C3). -/
theorem Machine.Window.rollOut_rollIn (v : Window) (c : Byte) :
    (v.rollIn c).rollOut c = { v with s2 := v.s2 + v.s1 - v.count * weighted c } := by
  simp only [Window.rollIn, Window.rollOut, Window.mk.injEq, show (1#16 : Half) = 1 from rfl]
  exact ⟨by ring, by ring, by ring⟩

/-- A window of equal bytes, of any number, returns: the byte rolled in and the oldest are the same (40_rwc_commands
R125). -/
theorem rollOut_rollIn_of_represents_replicate {v : Window} {n : Nat} {c : Byte}
    (h : represents v (List.replicate n c)) : (v.rollIn c).rollOut c = v := by
  have longer : represents (v.rollIn c) (c :: List.replicate n c) := by
    rw [Window.rollIn_eq_update, ← List.replicate_succ, List.replicate_succ']
    exact represents_update h [c]
  exact ((represents_iff _ _).1 (represents_rollOut longer rfl)).trans ((represents_iff _ _).1 h).symm

/-- Settles O28: `s2` returns when the old `s1` and the product taken from it cancel. -/
theorem rollInThenRollOut : Obligations.RollInThenRollOut := by
  intro s c
  refine ⟨s.withBlock (s.setR ((s.r.rollIn c).rollOut c)), rfl, rfl, ?_, ?_, ?_, ?_, fun n h => ?_⟩
  · simp [Window.rollOut_rollIn]
  · simp [Window.rollOut_rollIn]
  · apply toNat_of_eq_intCast
    simp [Window.rollOut_rollIn, weighted_eq_natCast]
  · have product : s.r.count * weighted c = ((s.r.count.toNat * (c.toNat + 31) : Nat) : Half) := by
      simp [weighted_eq_natCast]
    rw [← eq_natCast_iff, ← product, State.withBlock_toBlock, Block.setR_r, Window.rollOut_rollIn, sub_eq_iff_eq_add,
      add_right_inj]
  · rw [rollOut_rollIn_of_represents_replicate h]
    rfl

/-- Settles O29: the windows are equal, and ROLL_OUT lowers `count`. -/
theorem rotateEqualsRollOutThenRollIn : Obligations.RotateEqualsRollOutThenRollIn := by
  refine fun s cOut cIn => ⟨?_, _, rfl, rfl⟩
  rw [exec, execRotate, Window.rotate_eq_rollOut_rollIn]
  rfl

/-- Two ROLL_INs: the first byte weighs twice in `s2` (40_rwc_commands R130). -/
theorem Machine.Window.rollIn_rollIn (v : Window) (a b : Byte) :
    (v.rollIn a).rollIn b =
      { s1 := v.s1 + (weighted a + weighted b), s2 := v.s2 + 2 * v.s1 + (weighted a + weighted b) + weighted a,
        count := v.count + 2 } := by
  simp only [Window.rollIn, Window.mk.injEq, show (1#16 : Half) = 1 from rfl]
  exact ⟨by ring, by ring, by ring⟩

/-- Settles O30: the two orders differ in `s2` by the first byte's weight. -/
theorem orderOfBytesMatters : Obligations.OrderOfBytesMatters := by
  intro s a b
  refine ⟨s.withBlock (s.setR ((s.r.rollIn a).rollIn b)), s.withBlock (s.setR ((s.r.rollIn b).rollIn a)), rfl, rfl,
    ?_, ?_⟩
  · simp [Window.rollIn_rollIn, add_comm]
  · simp [Window.rollIn_rollIn, add_comm (weighted a) (weighted b), weighted_inj]

/-! ### The known vector -/

/-- The sum of the bytes with one more byte. -/
theorem byteSum_append_singleton (bs : List Byte) (b : Byte) : byteSum (bs ++ [b]) = byteSum bs + b.toNat := by
  induction bs with
  | nil => simp [byteSum]
  | cons c cs ih => simp only [List.cons_append, byteSum, ih, Nat.add_assoc]

/-- One more byte weighs 1, and every byte before it 1 more than before (10_state R23). -/
theorem positionSum_append_singleton (bs : List Byte) (b : Byte) :
    positionSum (bs ++ [b]) = positionSum bs + byteSum bs + b.toNat := by
  induction bs with
  | nil => simp [positionSum, byteSum]
  | cons c cs ih =>
    simp only [List.cons_append, positionSum, byteSum, ih, List.length_append, List.length_singleton]
    ring

/-- The bytes `0, 1, ..., n - 1`. -/
def ramp (n : Nat) : List Byte := (List.range n).map (BitVec.ofNat 8)

theorem ramp_length (n : Nat) : (ramp n).length = n := by simp [ramp]

theorem ramp_succ (n : Nat) : ramp (n + 1) = ramp n ++ [BitVec.ofNat 8 n] := by
  simp [ramp, List.range_succ]

/-- The two sums of a ramp, `n * (n - 1) / 2` and `(n - 1) * n * (n + 1) / 6`, written without division. -/
theorem ramp_sums (n : Nat) (le : n ≤ 256) :
    2 * byteSum (ramp n) + n = n ^ 2 ∧ 6 * positionSum (ramp n) + n = n ^ 3 := by
  induction n with
  | zero => exact ⟨rfl, rfl⟩
  | succ n ih =>
    obtain ⟨hb, hp⟩ := ih (by omega)
    have hn : n % 256 = n := Nat.mod_eq_of_lt (by omega)
    simp only [ramp_succ, byteSum_append_singleton, positionSum_append_singleton, BitVec.toNat_ofNat, Nat.reducePow, hn]
    exact ⟨by linear_combination hb, by linear_combination hp + 3 * hb⟩

/-- The window of the bytes 0 to 255 (40_rwc_commands R128). -/
theorem update_ramp_256 : Window.zero.update (ramp 256) = { s1 := 0x9E80#16, s2 := 0x3A00#16, count := 256#16 } := by
  obtain ⟨hb, hp⟩ := ramp_sums 256 le_rfl
  rw [Window.update_zero, ramp_length]
  generalize byteSum (ramp 256) = bytes at hb ⊢
  generalize positionSum (ramp 256) = positions at hp ⊢
  obtain rfl : bytes = 32640 := by omega
  obtain rfl : positions = 2796160 := by omega
  decide

/-- Settles O27: the digest joins the two sums of the window. -/
theorem knownVectorDigest : Obligations.KnownVectorDigest :=
  ⟨(congrArg Window.digest update_ramp_256).trans (by decide), update_ramp_256⟩

end Sys2Proof
end

section
/-! PROOFS of the family of the register commands: what WRREG stores, what RDREG pushes, for all registers at once, and
what an RDREG can read in IDLE (41_config_commands R140 to R143). -/

namespace Sys2Proof

open Machine

/-! ### WRREG -/

/-- Settles O34: each WRREG writes its own register, which is the one its RDREG then pushes. -/
theorem wrregStoresTheValue : Obligations.WrregStoresTheValue := fun _ _ =>
  ⟨List.append_nil _, List.append_nil _, rfl, rfl, rfl, rfl⟩

/-! ### RDREG -/

/-- RDREG is format Q with the register's number in `A` (30_encoding R84). -/
theorem encode_rdregOf (c : Csr) :
    encode (rdregOf c) = [0x11#8, c.number, 0x00#8, 0x00#8, 0x00#8, 0x00#8, 0x00#8, 0x00#8] :=
  encode_of_header (by cases c <;> rfl) (by cases c <;> rfl)

/-- RDREG pushes what its register reads (41_config_commands R143). -/
theorem exec_rdregOf (c : Csr) (s : State) : exec (rdregOf c) s = .next { s with rsp := s.rsp ++ [s.csr c] } := by
  cases c <;> rfl

/-- A register of R, as a control register reads it (10_state R35). -/
theorem Machine.zext32_eq (v : Half) : zext32 v = BitVec.ofNat 32 v.toNat := (BitVec.ofNat_toNat 32 v).symm

/-- Settles O35: one encoding and one meaning for the eight registers; those of R are read zero-extended. -/
theorem rdregPushesTheRegister : Obligations.RdregPushesTheRegister := by
  intro s
  rw [← zext32_eq, ← zext32_eq, ← zext32_eq]
  exact ⟨List.map_congr_left (l := ([.magic, .blockLen, .strongLen, .status, .errinfo, .s1, .s2, .count] : List Csr))
      fun c _ => encode_rdregOf c,
    exec_rdregOf .magic s, exec_rdregOf .blockLen s, exec_rdregOf .strongLen s, exec_rdregOf .status s,
    exec_rdregOf .errinfo s, exec_rdregOf .s1 s, exec_rdregOf .s2 s, exec_rdregOf .count s⟩

/-! ### RDREG in IDLE -/

/-- An idle block that takes an RDREG pushes the register as it is: none depends on CMD. -/
theorem step_of_rdregOf {s : State} {c : Csr} {rest : List Byte} (hp : s.phase = .idle)
    (h : decode (s.taken ++ s.cmd) = .command (rdregOf c) rest) :
    step s = .next { s with taken := [], cmd := rest, rsp := s.rsp ++ [s.csr c] } :=
  (stepRunsTheDecodedCommand s _ rest hp h).trans (exec_rdregOf c _)

/-- Without a fault STATUS reads as its DONE bit alone (10_state R33). -/
theorem Machine.Block.noFault.status_word {b : Block} (h : b.noFault) :
    b.status.word = if b.status.done then 0x00000002#32 else 0x00000000#32 := by
  obtain ⟨hfault, hcause, _⟩ := h
  have only : b.status = { fault := false, done := b.status.done, cause := .none } := by rw [← hfault, ← hcause]
  rw [only]
  cases b.status.done <;> decide

/-- Settles O36: the invariant leaves an idle block no fault, so STATUS reads as DONE and ERRINFO as 0. -/
theorem idleStatusReadsZeroOrDone : Obligations.IdleStatusReadsZeroOrDone := by
  intro s rest hs hp
  obtain ⟨_, hok, _⟩ := (inv_idle_iff hp).1 hs
  have errinfo : s.errinfo = 0#32 := hs.errinfoZero hok.1
  refine ⟨fun h => ⟨s.csr .status, step_of_rdregOf hp h, hok.status_word⟩, fun h => ?_⟩
  rw [← errinfo]
  exact step_of_rdregOf (c := .errinfo) hp h

end Sys2Proof
end

section
/-! PROOFS of the family of GENERATE, first its actions one by one: the start, the writes, the fill, the record, and that
each of them waits, moves `phase` or takes a byte (42_generate_pipeline R151 to R159, R168). -/

namespace Sys2Proof

open Machine

/-! ### The start -/

/-- The bits of the mask of the failed configuration checks (42_generate_pipeline R151). -/
theorem Machine.configMask_bits (blockLen strongLen : Word) :
    (configMask blockLen strongLen).getLsbD 0 = decide (blockLen.toNat = 0) ∧
    (configMask blockLen strongLen).getLsbD 1 = decide (32 < strongLen.toNat) ∧
    (configMask blockLen strongLen).getLsbD 2 = decide (Config.bufCap < blockLen.toNat) ∧
    (configMask blockLen strongLen).extractLsb' 3 29 = 0#29 := by
  have bits (large long zero : Bool) :
      let mask : Word := 0#29 ++ BitVec.ofBool large ++ BitVec.ofBool long ++ BitVec.ofBool zero
      mask.getLsbD 0 = zero ∧ mask.getLsbD 1 = long ∧ mask.getLsbD 2 = large ∧ mask.extractLsb' 3 29 = 0#29 := by
    revert large long zero
    decide
  have zero : (blockLen == 0#32) = decide (blockLen.toNat = 0) := by
    rw [Bool.eq_iff_iff]
    simp [BitVec.toNat_eq]
  rw [← zero]
  exact bits _ _ _

/-- On a legal configuration GENERATE starts the run (42_generate_pipeline R151). -/
theorem exec_generate_of_legal {s : State} (h : legalConfig s.blockLen s.strongLen) :
    exec .generate s = .next (s.withBlock s.startRun) := by
  rw [exec, execGenerate, Block.checkAndStart, if_pos ((configMask_eq_zero_iff _ _).2 h)]

/-- On any other GENERATE enters the fault state (42_generate_pipeline R151, 60_exceptions R193). -/
theorem exec_generate_of_illegal {s : State} (h : ¬legalConfig s.blockLen s.strongLen) :
    exec .generate s = .next { s with
      status := { fault := true, done := false, cause := .configError },
      errinfo := configMask s.blockLen s.strongLen, phase := .fault, rsp := s.rsp ++ [0x00000201#32] } := by
  rw [exec, execGenerate, Block.checkAndStart, if_neg (mt (configMask_eq_zero_iff _ _).1 h), ← Block.raise_rsp_config]
  rfl

/-- Settles O38: the mask is 0 exactly on a legal configuration, and its bits are the failed checks. -/
theorem generateStartAction : Obligations.GenerateStartAction := by
  intro s
  refine ⟨fun ⟨pos, strong, cap⟩ => exec_generate_of_legal ⟨pos, cap, strong⟩, fun h => ?_⟩
  exact ⟨_, exec_generate_of_illegal fun ⟨pos, cap, strong⟩ => h ⟨pos, strong, cap⟩, configMask_bits _ _⟩

/-! ### The writes -/

/-- A write answered `Ok` (20_memory R55). -/
theorem settle_writeThen_ok {s : State} {q : List SnkAnswer} (h : s.snk = .ok :: q) (bytes : List Byte)
    (k : Block → Block) :
    s.settle (writeThen s.answers s.toBlock bytes k) =
      { s with
        toBlock := k s.toBlock, snk := q, sink := s.sink ++ bytes, trace := s.trace ++ [.snkWrite bytes .ok] } := by
  rcases settle_writeThen_cases s bytes k with ⟨e, _⟩ | ⟨q', e, h2⟩ | ⟨_, _, e, _⟩ <;> (rw [h] at e; cases e)
  exact h2

/-- A write answered `Err`, as fault entry seen from outside and from the ports (60_exceptions R195). -/
theorem faultedBy_of_writeThen {s : State} {q : List SnkAnswer} {e : Word} {bytes : List Byte} {k : Block → Block}
    (h : s.snk = .err e :: q) (hstep : step s = .next (s.settle (writeThen s.answers s.toBlock bytes k))) :
    ∃ t, step s = .next t ∧ faultedBy s t .snkWriteError e 0x00000401#32 ∧ t.snk = q ∧ t.src = s.src ∧
      t.hashReady = s.hashReady := by
  rcases settle_writeThen_cases s bytes k with ⟨e', _⟩ | ⟨_, e', _⟩ | ⟨_, q', e', h2⟩ <;> (rw [h] at e'; cases e')
  exact ⟨_, hstep.trans (congrArg _ h2), faultedBy_writeFailed s q bytes e, rfl, rfl, rfl⟩

/-- Settles O39: each header action is one write. -/
theorem headerActions : Obligations.HeaderActions := by
  intro s q
  refine ⟨fun h => ⟨fun hp => ?_, fun hp => ?_, fun hp => ?_⟩, fun e h hp => ?_⟩
  · rw [step_hdr0 s hp, settle_writeThen_ok h, be32_magic]
    rfl
  · rw [step_hdr1 s hp, settle_writeThen_ok h]
    rfl
  · rw [step_hdr2 s hp, settle_writeThen_ok h]
    rfl
  · rcases hp with hp | hp | hp
    · exact faultedBy_of_writeThen h (step_hdr0 s hp)
    · exact faultedBy_of_writeThen h (step_hdr1 s hp)
    · exact faultedBy_of_writeThen h (step_hdr2 s hp)

/-- The weak action, within the bounds of BUF, is one write (42_generate_pipeline R156). -/
theorem step_weak {s : State} (hp : s.phase = .weak) (bound : s.fill.toNat ≤ s.blockLen.toNat) :
    step s = .next (s.settle (writeThen s.answers s.toBlock (be32 (blockWindow s.gathered).digest)
      (fun c => (c.setW (blockWindow s.gathered)).setPhase .strong))) := by
  rcases step_weak_cases s hp with ⟨beyond, _⟩ | ⟨_, e⟩
  · omega
  · exact e

/-- A byte of the block gathered is the byte of BUF at its index (10_state R37). -/
theorem gathered_getD (b : Block) {a : Nat} (h : a < b.fill.toNat) : b.gathered.getD a 0#8 = b.buf.read a := by
  rw [Block.gathered, Memory.readBytes_getD _ _ _ _ h, Nat.zero_add]

/-- Settles O44: the four bytes are the digest of a fresh window of the block gathered. -/
theorem weakActionWritesTheDigest : Obligations.WeakActionWritesTheDigest := by
  intro s q hp bound
  have hstep := step_weak hp bound
  refine ⟨fun h => ?_, fun e h => faultedBy_of_writeThen h hstep⟩
  rw [settle_writeThen_ok h, be32_digest] at hstep
  exact ⟨_, s.gathered, _, hstep, s.gathered_length, fun a ha => gathered_getD _ ha, (represents_iff _ _).2 rfl, rfl, rfl⟩

/-- What follows a record in a run that has not faulted, field by field (42_generate_pipeline R158, R159). -/
theorem afterRecord_of_noFault {b : Block} (hf : b.status.fault = false) (hc : b.status.cause = .none) :
    afterRecord b = { b with
      phase := if b.fill.toNat < b.blockLen.toNat then .idle else .fill,
      fill := if b.fill.toNat < b.blockLen.toNat then b.fill else 0#32,
      status := if b.fill.toNat < b.blockLen.toNat then { fault := false, done := true, cause := .none } else b.status,
      rsp := if b.fill.toNat < b.blockLen.toNat then b.rsp ++ [0x00000002#32] else b.rsp } := by
  by_cases short : b.fill.toNat < b.blockLen.toNat
  · simp [afterRecord, short, b.endRun_of_noFault hf hc]
  · simp only [afterRecord, short, if_false]
    rfl

/-- The strong action when HASH answers and `STRONG_LEN` is 0 (42_generate_pipeline R157, log 15). -/
theorem step_strong_of_noBytes {s : State} {n : Nat} (hp : s.phase = .strong)
    (bound : s.fill.toNat ≤ s.blockLen.toNat) (ready : s.hashReady = n + 1) (hz : s.strongLen = 0#32) :
    step s = .next ((s.hashed n).withBlock (afterRecord s.toBlock)) := by
  rcases step_strong_cases s hp with ⟨beyond, _⟩ | ⟨_, ⟨noHash, _⟩ | ⟨n', ready', ⟨_, e⟩ | ⟨nonzero, _⟩⟩⟩
  · omega
  · omega
  · obtain rfl : n = n' := by omega
    exact e
  · exact absurd hz nonzero

/-- The strong action when HASH answers and the sink answers `Ok` (42_generate_pipeline R157). -/
theorem step_strong_of_ok {s : State} {n : Nat} {q : List SnkAnswer} (hp : s.phase = .strong)
    (bound : s.fill.toNat ≤ s.blockLen.toNat) (ready : s.hashReady = n + 1) (hz : s.strongLen ≠ 0#32)
    (hq : s.snk = .ok :: q) :
    step s = .next { s.hashed n with
      toBlock := afterRecord s.toBlock, snk := q, sink := s.sink ++ strongDigest s.strongLen s.gathered,
      trace := (s.hashed n).trace ++ [.snkWrite (strongDigest s.strongLen s.gathered) .ok] } := by
  rcases step_strong_cases s hp with ⟨beyond, _⟩ | ⟨_, ⟨noHash, _⟩ | ⟨n', ready', ⟨zero, _⟩ | ⟨_, answered⟩⟩⟩
  · omega
  · omega
  · exact absurd zero hz
  · obtain rfl : n = n' := by omega
    rcases answered with ⟨e, _⟩ | ⟨q', e, hstep⟩ | ⟨_, _, e, _⟩ <;> (rw [hq] at e; cases e)
    exact hstep

/-- Settles O45: the hash's answer is taken, and what follows a record does not depend on what was written. -/
theorem strongActionWritesTheHash : Obligations.StrongActionWritesTheHash := by
  intro s t n hp bound _ hf hc ready written
  have after := afterRecord_of_noFault hf hc
  rcases written with ⟨hz, rfl⟩ | ⟨q, hz, hq, rfl⟩
  · exact ⟨_, step_strong_of_noBytes hp bound ready hz, rfl, rfl, by rw [after]; rfl⟩
  · exact ⟨_, step_strong_of_ok hp bound ready hz hq, rfl, rfl, by rw [after]; rfl⟩

/-! ### The fill -/

/-- Settles O43: a full block is all the fill action looks at. -/
theorem fullBlockGoesToWeak : Obligations.FullBlockGoesToWeak := by
  intro s hp full
  rcases step_fill_cases s hp with ⟨_, e⟩ | ⟨free, _⟩
  · exact e
  · rw [full] at free
    omega

/-- The fill action on a zero-length answer (42_generate_pipeline R154). -/
theorem step_fill_of_end {s : State} {q : List SrcAnswer} (hp : s.phase = .fill)
    (free : s.fill.toNat < s.blockLen.toNat) (h : s.src = .data [] :: q) :
    step s = .next { s with
      toBlock := if s.fill = 0#32 then s.endRun else s.setPhase .weak, src := q,
      trace := s.trace ++ [.srcRead (s.blockLen - s.fill) (.data [])] } := by
  rcases step_fill_cases s hp with ⟨_, _⟩ | ⟨_, ⟨e, _⟩ | ⟨q', e, hstep⟩ | ⟨_, _, e, nonempty, _⟩ | ⟨_, _, e, _⟩⟩
  case inl => omega
  all_goals rw [h] at e; cases e
  · simpa [State.readData, srcLeft] using hstep
  · exact absurd rfl nonempty

/-- Settles O41: no byte gathered ends the run, any other number of them is the last block. -/
theorem fillAtEndOfStream : Obligations.FillAtEndOfStream := by
  intro s q hp free h
  rw [step_fill_of_end hp free h]
  refine ⟨fun nonzero => ?_, fun zero hf hc => ?_⟩
  · rw [if_neg nonzero]
    rfl
  · rw [if_pos zero, Block.endRun_of_noFault _ hf hc]

/-- The fill action on an answer of at least one byte (42_generate_pipeline R154). -/
theorem step_fill_of_data {s : State} {bytes : List Byte} {q : List SrcAnswer} (hp : s.phase = .fill)
    (free : s.fill.toNat < s.blockLen.toNat) (h : s.src = .data bytes :: q) (nonempty : bytes ≠ []) :
    step s = .next (s.readData (s.blockLen - s.fill) q bytes
      (s.storeBytes (bytes.take (s.blockLen.toNat - s.fill.toNat)))) := by
  rcases step_fill_cases s hp with ⟨_, _⟩ | ⟨_, ⟨e, _⟩ | ⟨q', e, _⟩ | ⟨_, _, e, _, hstep⟩ | ⟨_, _, e, _⟩⟩
  case inl => omega
  all_goals rw [h] at e; cases e
  · exact absurd rfl nonempty
  · exact hstep

/-- What a read leaves of the source's answers, by the number of bytes it got (log 2). -/
theorem srcLeft_data (max : Nat) (bytes : List Byte) (q : List SrcAnswer) :
    srcLeft max (.data bytes :: q) =
      if bytes.length ≤ (bytes.take max).length then q else .data (bytes.drop (bytes.take max).length) :: q := by
  rw [List.length_take, srcLeft]
  by_cases fits : bytes.length ≤ max
  · rw [if_pos fits, if_pos (by omega)]
  · rw [if_neg fits, if_neg (by omega), Nat.min_eq_left (by omega)]

/-- Settles O40: what the read gets fits in the free space, so the store is at `fill` and does not wrap. -/
theorem fillStoresTheAnswer : Obligations.FillStoresTheAnswer := by
  intro s bytes q hp free h nonempty wf
  have fits : s.fill.toNat + (bytes.take (s.blockLen.toNat - s.fill.toNat)).length ≤ s.blockLen.toNat := by
    rw [List.length_take]
    omega
  have fill := storeBytes_fill_toNat fits
  have hstep := step_fill_of_data hp free h nonempty
  rw [State.readData, free_toNat _ _ free, srcLeft_data] at hstep
  exact ⟨_, _, hstep, rfl, hp, fill, fill.trans_le fits, fun a => Memory.read_writeBytes _ _ a _ wf, rfl, rfl, rfl⟩

/-! ### Progress -/

/-- An action that is one write, and with `Ok` moves `phase`, waits for the sink or moves `phase`. -/
theorem progress_of_write {s t : State} {p : Phase} {bytes : List Byte} {k : Block → Block} (hp : s.phase = p)
    (writes : p = .hdr0 ∨ p = .hdr1 ∨ p = .hdr2 ∨ p = .weak)
    (e : step s = .next (s.settle (writeThen s.answers s.toBlock bytes k))) (h : step s = .next t)
    (moves : (k s.toBlock).phase ≠ p) : (t = s ∧ awaitsAnswer s) ∨ t.phase ≠ p := by
  obtain rfl : s.settle (writeThen s.answers s.toBlock bytes k) = t := by simpa [e] using h
  rcases settle_writeThen_cases s bytes k with ⟨waits, h2⟩ | ⟨q, _, h2⟩ | ⟨err, q, _, h2⟩ <;> rw [h2]
  · exact .inl ⟨rfl, .inr (.inl ⟨hp ▸ writes, waits⟩)⟩
  · exact .inr moves
  · refine .inr fun (fault : Phase.fault = p) => ?_
    simp [← fault] at writes

/-- Storing bytes that fit, at least one, raises `fill`. -/
theorem fill_lt_storeBytes {b : Block} {bytes : List Byte} (nonempty : bytes ≠ [])
    (free : b.fill.toNat < b.blockLen.toNat) :
    b.fill.toNat < (b.storeBytes (bytes.take (b.blockLen.toNat - b.fill.toNat))).fill.toNat := by
  have pos := List.length_pos_of_ne_nil nonempty
  rw [storeBytes_fill_toNat (n := b.blockLen) (by rw [List.length_take]; omega), List.length_take]
  omega

/-- What follows a record is not STRONG (42_generate_pipeline R158). -/
theorem afterRecord_phase_ne (b : Block) : (afterRecord b).phase ≠ .strong := by
  rcases afterRecord_cases b with e | e <;> rw [e] <;> exact nofun

/-- Settles O49, phase by phase: a write waits for the sink, FILL for the source, STRONG for HASH and then the sink. -/
theorem runStepsMakeProgress : Obligations.RunStepsMakeProgress := by
  intro s t hr h
  cases hp : s.phase with
  | idle => simp [hp, Phase.running] at hr
  | fault => simp [hp, Phase.running] at hr
  | hdr0 => exact (progress_of_write hp (.inl rfl) (step_hdr0 s hp) h nofun).imp_right .inl
  | hdr1 => exact (progress_of_write hp (.inr (.inl rfl)) (step_hdr1 s hp) h nofun).imp_right .inl
  | hdr2 => exact (progress_of_write hp (.inr (.inr (.inl rfl))) (step_hdr2 s hp) h nofun).imp_right .inl
  | weak =>
    rcases step_weak_cases s hp with ⟨_, e⟩ | ⟨_, e⟩
    · simp [e] at h
    · exact (progress_of_write hp (.inr (.inr (.inr rfl))) e h nofun).imp_right .inl
  | fill =>
    rcases step_fill_cases s hp with
      ⟨_, e⟩ | ⟨free, ⟨waits, e⟩ | ⟨q, _, e⟩ | ⟨bytes, q, _, nonempty, e⟩ | ⟨err, q, _, e⟩⟩ <;>
      (rw [e] at h; cases h)
    · exact .inr (.inl nofun)
    · exact .inl ⟨rfl, .inl ⟨hp, free, waits⟩⟩
    · exact .inr (.inl (by dsimp only [State.readData]; split <;> exact nofun))
    · exact .inr (.inr ⟨rfl, hp, fill_lt_storeBytes nonempty free⟩)
    · exact .inr (.inl nofun)
  | strong =>
    rcases step_strong_cases s hp with
      ⟨_, e⟩ | ⟨_, ⟨waits, e⟩ | ⟨n, _, ⟨_, e⟩ | ⟨hz, ⟨waits, e⟩ | ⟨q, _, e⟩ | ⟨err, q, _, e⟩⟩⟩⟩ <;>
      (rw [e] at h; cases h)
    · exact .inl ⟨rfl, .inr (.inr ⟨hp, .inl waits⟩)⟩
    · exact .inr (.inl (afterRecord_phase_ne _))
    · exact .inl ⟨rfl, .inr (.inr ⟨hp, .inr ⟨hz, waits⟩⟩)⟩
    · exact .inr (.inl (afterRecord_phase_ne _))
    · exact .inr (.inl nofun)

end Sys2Proof
end

section
/-! PROOFS on a whole GENERATE run without an `Err`: the signature's length, a source that delivers given bytes, and the
run from FILL to its end, record by record (42_generate_pipeline R152 to R161). -/

namespace Sys2Proof

open Machine Relation

/-! ### The signature's length -/

@[simp] theorem blocksOf_length (blockLen : Nat) (x : List Byte) :
    (blocksOf blockLen x).length = blockCount blockLen x.length := by
  simp [blocksOf]

/-- A record is four bytes and `STRONG_LEN` (20_memory R61). -/
theorem recordOf_length {strongLen : Word} (h : strongLen.toNat ≤ 32) (block : List Byte) :
    (recordOf strongLen block).length = 4 + strongLen.toNat := by
  simp [recordOf, strongDigest, hashPrefix, h]

/-- Records of one length, counted (20_memory R62). -/
theorem records_length {strongLen : Word} (h : strongLen.toNat ≤ 32) (blocks : List (List Byte)) :
    (blocks.flatMap (recordOf strongLen)).length = blocks.length * (4 + strongLen.toNat) := by
  simp [List.length_flatMap, recordOf_length h]

/-- The header and the records, counted (42_generate_pipeline R161). -/
theorem signature_length {blockLen strongLen : Word} (h : strongLen.toNat ≤ 32) (x : List Byte) :
    (signature blockLen strongLen x).length = 12 + blockCount blockLen.toNat x.length * (4 + strongLen.toNat) := by
  simp only [signature, signatureHeader, List.length_append, be32_length, records_length h, blocksOf_length]

/-- Settles O56: a record is never empty, so dividing by its length counts the records. -/
theorem signatureLength : Obligations.SignatureLength := by
  intro blockLen strongLen x h
  refine ⟨signature_length h x, ?_⟩
  rw [signature_length h, Nat.add_sub_cancel_left, Nat.mul_div_cancel _ (by omega)]

/-! ### The source -/

/-- The source will deliver exactly these bytes, cut into non-empty answers in any way, and then answer zero bytes, with
`rest` to follow (20_memory R52, R54). -/
inductive Delivers (rest : List SrcAnswer) : List SrcAnswer → List Byte → Prop
  | ended : Delivers rest (.data [] :: rest) []
  | chunk (c : List Byte) (q : List SrcAnswer) (x : List Byte) (nonempty : c ≠ []) (later : Delivers rest q x) :
      Delivers rest (.data c :: q) (c ++ x)

/-- Non-empty chunks and a zero-length answer deliver the chunks, one after the other. -/
theorem delivers_of_chunks {chunks : List (List Byte)} (nonempty : ∀ c ∈ chunks, c ≠ []) (rest : List SrcAnswer) :
    Delivers rest (chunks.map SrcAnswer.data ++ .data [] :: rest) chunks.flatten := by
  induction chunks with
  | nil => exact .ended
  | cons c chunks ih =>
    obtain ⟨hc, hchunks⟩ := List.forall_mem_cons.1 nonempty
    exact .chunk c _ _ hc (ih hchunks)

/-- A read leaves a source that delivers the bytes it did not get (log 2). -/
theorem Delivers.srcLeft {rest q : List SrcAnswer} {c x : List Byte} (later : Delivers rest q x) (max : Nat) :
    Delivers rest (srcLeft max (.data c :: q)) (c.drop max ++ x) := by
  by_cases fits : c.length ≤ max
  · simpa [Machine.srcLeft, fits, List.drop_of_length_le fits] using later
  · simpa [Machine.srcLeft, fits] using Delivers.chunk (c.drop max) q x (by simpa using fits) later

/-! ### The run -/

section Run

variable {srcRest : List SrcAnswer} {snkRest : List SnkAnswer} {hashRest : Nat}

/-- How many writes a record is (42_generate_pipeline R157, 90 C6). -/
def recordWrites (strongLen : Word) : Nat := if strongLen = 0#32 then 1 else 2

/-- The sink and HASH have the answers ready that `m` records need, with `snkRest` and `hashRest` to follow. -/
def ReadyFor (s : State) (m : Nat) (snkRest : List SnkAnswer) (hashRest : Nat) : Prop :=
  s.snk = List.replicate (m * recordWrites s.strongLen) .ok ++ snkRest ∧ s.hashReady = m + hashRest

/-- Within a run `t` comes after `s`, with `out` written between them (42_generate_pipeline R160). -/
def WritesTo (s t : State) (out : List Byte) : Prop :=
  t = { s with
    phase := t.phase, status := t.status, w := t.w, buf := t.buf, fill := t.fill, src := t.src, snk := t.snk,
    hashReady := t.hashReady, sink := s.sink ++ out, trace := t.trace }

/-- One step of the closed machine leads from `s` to `t`. -/
def StepsTo (s t : State) : Prop := step s = .next t

/-- Steps that lead from `s` to `t` are a run of some length. -/
theorem exists_run_of_steps {s t : State} (h : ReflTransGen StepsTo s t) : ∃ n, Sys2Proof.core.run n s = .next t := by
  induction h using ReflTransGen.head_induction_on with
  | refl => exact ⟨0, rfl⟩
  | head first _ ih =>
    obtain ⟨n, hn⟩ := ih
    exact ⟨n + 1, (run_succ first n).trans hn⟩

/-- The run ends from `s`, with `out` written until then, `0x00000002` pushed, and these answers left to its environment
(42_generate_pipeline R159). -/
def EndsWith (s : State) (out : List Byte) (srcRest : List SrcAnswer) (snkRest : List SnkAnswer) (hashRest : Nat) : Prop :=
  ∃ t : State, ReflTransGen StepsTo s t ∧
    t = { s with
      phase := .idle, status := { fault := false, done := true, cause := .none }, w := t.w, buf := t.buf, fill := t.fill,
      src := srcRest, snk := snkRest, hashReady := hashRest, sink := s.sink ++ out, trace := t.trace,
      rsp := s.rsp ++ [0x00000002#32] }

/-- Steps of a run before its end. -/
theorem EndsWith.of_steps {s t : State} {out₁ out₂ : List Byte} (h : ReflTransGen StepsTo s t) (wrote : WritesTo s t out₁)
    (e : EndsWith t out₂ srcRest snkRest hashRest) : EndsWith s (out₁ ++ out₂) srcRest snkRest hashRest := by
  obtain ⟨u, later, hu⟩ := e
  refine ⟨u, h.trans later, ?_⟩
  rw [wrote] at hu
  simpa only [List.append_assoc] using hu

/-- The write of a digest leaves what follows the record as it was, but for W. -/
theorem afterRecord_weakDone (b : Block) (v : Window) :
    afterRecord ((b.setW v).setPhase .strong) = (afterRecord b).setW v := by
  unfold afterRecord
  split
  next short => rw [if_pos (by exact short)]; rfl
  next full => rw [if_neg (by exact full)]; rfl

/-- The strong action with HASH ready and the sink ready for as many writes as it makes (42_generate_pipeline R157). -/
theorem step_strong_of_ready {s : State} {n : Nat} {q : List SnkAnswer} (hp : s.phase = .strong)
    (bound : s.fill.toNat ≤ s.blockLen.toNat) (hhash : s.hashReady = n + 1)
    (hsnk : s.snk = List.replicate (recordWrites s.strongLen - 1) .ok ++ q) :
    ∃ tr, step s = .next { s with
      toBlock := afterRecord s.toBlock, hashReady := n, snk := q,
      sink := s.sink ++ strongDigest s.strongLen s.gathered, trace := tr } := by
  by_cases hz : s.strongLen = 0#32
  · have kept : s.snk = q := by simpa [recordWrites, hz] using hsnk
    have nothing : strongDigest s.strongLen s.gathered = [] := by simp [strongDigest, hashPrefix, hz]
    rw [nothing, List.append_nil, ← kept]
    exact ⟨_, step_strong_of_noBytes hp bound hhash hz⟩
  · exact ⟨_, step_strong_of_ok hp bound hhash hz (by simpa [recordWrites, hz] using hsnk)⟩

/-- A record from WEAK on is two steps: its digest and its hash are written, then comes what follows it
(42_generate_pipeline R156 to R158). -/
theorem record_steps {s : State} {m : Nat} (hs : Inv s) (hp : s.phase = .weak)
    (ready : ReadyFor s (m + 1) snkRest hashRest) :
    ∃ v tr, ReflTransGen StepsTo s { s with
      toBlock := (afterRecord s.toBlock).setW v, snk := List.replicate (m * recordWrites s.strongLen) .ok ++ snkRest,
      hashReady := m + hashRest, sink := s.sink ++ recordOf s.strongLen s.gathered, trace := tr } := by
  obtain ⟨hsnk, hhash⟩ := ready
  have bound := (hs.blockBound (.inl hp)).2
  have hq : s.snk = .ok :: (List.replicate (recordWrites s.strongLen - 1) .ok ++
      (List.replicate (m * recordWrites s.strongLen) .ok ++ snkRest)) := by
    have count : (m + 1) * recordWrites s.strongLen =
        (recordWrites s.strongLen - 1 + m * recordWrites s.strongLen) + 1 := by
      have pos : 1 ≤ recordWrites s.strongLen := by unfold recordWrites; split <;> omega
      rw [Nat.succ_mul]
      omega
    rw [hsnk, count, List.replicate_succ, List.replicate_add, List.cons_append, List.append_assoc]
  obtain ⟨mid, weak, hmid⟩ : ∃ mid, step s = .next mid ∧ mid = _ :=
    ⟨_, step_weak hp bound, settle_writeThen_ok hq _ _⟩
  obtain ⟨tr, strong⟩ := step_strong_of_ready (s := mid) (n := m + hashRest)
    (q := List.replicate (m * recordWrites s.strongLen) .ok ++ snkRest) (by rw [hmid]; rfl) (by rw [hmid]; exact bound)
    (by rw [hmid]; exact hhash.trans (by omega)) (by rw [hmid]; rfl)
  have joined : s.sink ++ recordOf s.strongLen s.gathered =
      s.sink ++ be32 (blockWindow s.gathered).digest ++ strongDigest s.strongLen s.gathered :=
    (List.append_assoc _ _ _).symm
  refine ⟨blockWindow s.gathered, tr, .head weak (.single (strong.trans ?_))⟩
  rw [joined, hmid, afterRecord_weakDone]
  rfl

/-- What has just been stored is gathered after what was there (42_generate_pipeline R154). -/
theorem gathered_storeBytes {b : Block} {bytes : List Byte} (wf : b.buf.wf = true)
    (fits : b.fill.toNat + bytes.length ≤ b.blockLen.toNat) : (b.storeBytes bytes).gathered = b.gathered ++ bytes := by
  rw [Block.gathered, storeBytes_fill_toNat fits, Block.storeBytes_buf, Memory.readBytes_add, Nat.zero_add,
    Memory.readBytes_writeBytes_same _ _ _ wf, Memory.readBytes_writeBytes_before _ _ _ _ _ wf (by omega)]
  rfl

/-- FILL at the end of the stream with no byte gathered: the run ends without a record (42_generate_pipeline R154). -/
theorem endsWith_of_noBlock {s : State}
    (hs : Inv s) (hp : s.phase = .fill) (src : s.src = .data [] :: srcRest) (empty : s.fill = 0#32)
    (ready : ReadyFor s 0 snkRest hashRest) : EndsWith s [] srcRest snkRest hashRest := by
  obtain ⟨hsnk, hhash⟩ := ready
  obtain ⟨_, ⟨hf, hc, _⟩, _, ⟨pos, _⟩, _⟩ := (inv_running_iff (by rw [hp]; rfl)).1 hs
  have hstep := (fillAtEndOfStream s srcRest hp (by rw [empty]; exact pos) src).2 empty hf hc
  refine ⟨_, .single hstep, ?_⟩
  rw [List.append_nil, ← show s.snk = snkRest by simpa using hsnk, ← show s.hashReady = hashRest by simpa using hhash]

/-- The record of a short block ends the run (42_generate_pipeline R158). -/
theorem endsWith_of_shortRecord {s : State} (hs : Inv s)
    (hp : s.phase = .weak) (short : s.fill.toNat < s.blockLen.toNat) (ready : ReadyFor s 1 snkRest hashRest) :
    EndsWith s (recordOf s.strongLen s.gathered) s.src snkRest hashRest := by
  obtain ⟨_, ⟨hf, hc, _⟩, _⟩ := (inv_running_iff (by rw [hp]; rfl)).1 hs
  obtain ⟨v, tr, record⟩ := record_steps (m := 0) hs hp ready
  rw [afterRecord, if_pos short, Block.endRun_of_noFault _ hf hc, Nat.zero_mul, Nat.zero_add] at record
  exact ⟨_, record, rfl⟩

/-- After the record of a full block the next block begins (42_generate_pipeline R158). -/
theorem fullRecord_steps {s : State} {m : Nat} (hs : Inv s) (hp : s.phase = .weak)
    (full : s.fill = s.blockLen) (ready : ReadyFor s (m + 1) snkRest hashRest) :
    ∃ t, ReflTransGen StepsTo s t ∧ WritesTo s t (recordOf s.strongLen s.gathered) ∧ t.phase = .fill ∧
      t.fill = 0#32 ∧ t.src = s.src ∧ ReadyFor t m snkRest hashRest := by
  obtain ⟨v, tr, record⟩ := record_steps hs hp ready
  rw [afterRecord, full, if_neg (lt_irrefl _)] at record
  exact ⟨_, record, rfl, rfl, rfl, rfl, rfl, rfl⟩

/-- FILL at the end of the stream with bytes gathered: they are the last block, and its record the last
(42_generate_pipeline R154, R158). -/
theorem endsWith_of_shortBlock {s : State}
    (hs : Inv s) (hp : s.phase = .fill) (src : s.src = .data [] :: srcRest) (nonempty : s.fill ≠ 0#32)
    (short : s.fill.toNat < s.blockLen.toNat) (ready : ReadyFor s 1 snkRest hashRest) :
    EndsWith s (recordOf s.strongLen s.gathered) srcRest snkRest hashRest := by
  have toWeak := (fillAtEndOfStream s srcRest hp short src).1 nonempty
  refine .of_steps (out₁ := []) (.single toWeak) ?_
    (endsWith_of_shortRecord (stepKeepsTheInvariant _ _ hs toWeak) rfl short ready)
  simp [WritesTo]

/-- FILL with a full block: its record is written and the next block begins (42_generate_pipeline R155 to R158). -/
theorem fullBlock_steps {s : State} {m : Nat} (hs : Inv s) (hp : s.phase = .fill)
    (full : s.fill = s.blockLen) (ready : ReadyFor s (m + 1) snkRest hashRest) :
    ∃ t, ReflTransGen StepsTo s t ∧ WritesTo s t (recordOf s.strongLen s.gathered) ∧ t.phase = .fill ∧
      t.fill = 0#32 ∧ t.src = s.src ∧ ReadyFor t m snkRest hashRest := by
  have toWeak := fullBlockGoesToWeak s hp full
  obtain ⟨t, record, rest⟩ := fullRecord_steps (stepKeepsTheInvariant _ _ hs toWeak) rfl full ready
  exact ⟨t, .head toWeak record, rest⟩

/-- FILL with free space and bytes to come: some are gathered, and the source delivers the rest
(42_generate_pipeline R154). -/
theorem fill_step {s : State} {c x : List Byte} {q : List SrcAnswer} (hs : Inv s) (hp : s.phase = .fill)
    (free : s.fill.toNat < s.blockLen.toNat) (src : s.src = .data c :: q) (nonempty : c ≠ [])
    (later : Delivers srcRest q x) :
    ∃ t y, step s = .next t ∧ WritesTo s t [] ∧ t.phase = .fill ∧ t.snk = s.snk ∧ t.hashReady = s.hashReady ∧
      Delivers srcRest t.src y ∧ t.gathered ++ y = s.gathered ++ (c ++ x) ∧ y.length < (c ++ x).length := by
  have fits : s.fill.toNat + (c.take (s.blockLen.toNat - s.fill.toNat)).length ≤ s.blockLen.toNat := by
    rw [List.length_take]
    omega
  have pos := List.length_pos_of_ne_nil nonempty
  refine ⟨_, c.drop (s.blockLen.toNat - s.fill.toNat) ++ x, step_fill_of_data hp free src nonempty, ?_, hp, rfl, rfl, ?_, ?_, ?_⟩
  · simp only [WritesTo, List.append_nil]
    rfl
  · rw [State.readData, free_toNat _ _ free]
    exact later.srcLeft _
  · rw [State.readData, gathered_storeBytes hs.bufWf fits, List.append_assoc, ← List.append_assoc (List.take _ _),
      List.take_append_drop]
  · simp only [List.length_append, List.length_drop]
    omega

/-- With `fill = 0` no byte is gathered (10_state R37). -/
theorem gathered_of_empty {b : Block} (h : b.fill = 0#32) : b.gathered = [] := by
  rw [← List.length_eq_zero_iff, Block.gathered_length, h]
  rfl

/-- Steps within a run leave the configuration. -/
theorem WritesTo.config {s t : State} {out : List Byte} (h : WritesTo s t out) :
    t.blockLen = s.blockLen ∧ t.strongLen = s.strongLen := by
  rw [h]
  exact ⟨rfl, rfl⟩

/-- Any number of steps keeps the invariant. -/
theorem inv_of_steps {s t : State} (hs : Inv s) (h : ReflTransGen StepsTo s t) : Inv t := by
  induction h with
  | refl => exact hs
  | tail _ last ih => exact stepKeepsTheInvariant _ _ ih last

/-- A run from FILL writes a record for each block of the bytes gathered and to come: by induction on those to come and,
where they stay, on those gathered (42_generate_pipeline R153 to R161). -/
theorem endsWith_of_fill {s : State} {x : List Byte}
    (hs : Inv s) (hp : s.phase = .fill) (src : Delivers srcRest s.src x)
    (ready : ReadyFor s (blockCount s.blockLen.toNat (s.gathered ++ x).length) snkRest hashRest) :
    EndsWith s ((blocksOf s.blockLen.toNat (s.gathered ++ x)).flatMap (recordOf s.strongLen)) srcRest snkRest hashRest := by
  induction hn : 2 * x.length + s.fill.toNat using Nat.strong_induction_on generalizing s x with
  | _ n ih =>
    obtain ⟨_, _, _, ⟨pos, _⟩, ⟨bound, _⟩, _⟩ := (inv_running_iff (by rw [hp]; rfl)).1 hs
    have gatheredLength := s.gathered_length
    by_cases full : s.fill = s.blockLen
    · rw [full] at gatheredLength hn
      have le : s.blockLen.toNat ≤ (s.gathered ++ x).length := by simp [gatheredLength]
      rw [blockCount_succ pos le, ← List.length_drop, List.drop_left' gatheredLength] at ready
      rw [blocksOf_cons _ pos le, List.flatMap_cons, List.take_left' gatheredLength, List.drop_left' gatheredLength]
      obtain ⟨t, steps, wrote, tphase, tfill, tsrc, tready⟩ := fullBlock_steps hs hp full ready
      obtain ⟨tblock, tstrong⟩ := wrote.config
      refine .of_steps steps wrote ?_
      rw [← tblock, ← tstrong]
      rw [← tblock] at tready
      have later := ih (2 * x.length + t.fill.toNat) (by simp [tfill]; omega) (inv_of_steps hs steps) tphase (tsrc ▸ src)
      rw [gathered_of_empty tfill, List.nil_append] at later
      exact later tready rfl
    have free : s.fill.toNat < s.blockLen.toNat :=
      lt_of_le_of_ne (bound hp) fun same => full (BitVec.eq_of_toNat_eq same)
    generalize hq : s.src = q at src
    cases src with
    | ended =>
      rw [List.append_nil] at ready ⊢
      by_cases empty : s.fill = 0#32
      · rw [gathered_of_empty empty, List.length_nil, blockCount_zero pos] at ready
        rw [gathered_of_empty empty, blocksOf_nil pos]
        exact endsWith_of_noBlock hs hp hq empty ready
      · have nonempty : s.gathered ≠ [] := by
          rw [← List.length_pos_iff, gatheredLength]
          exact Nat.pos_of_ne_zero fun zero => empty (BitVec.eq_of_toNat_eq zero)
        have le : s.gathered.length ≤ s.blockLen.toNat := gatheredLength.trans_le free.le
        rw [blockCount_one (List.length_pos_of_ne_nil nonempty) le] at ready
        rw [blocksOf_singleton nonempty le, List.flatMap_singleton]
        exact endsWith_of_shortBlock hs hp hq empty free ready
    | chunk c q x nonempty later =>
      obtain ⟨t, y, step, wrote, tphase, tsnk, thash, tsrc, whole, fewer⟩ := fill_step hs hp free hq nonempty later
      obtain ⟨tblock, tstrong⟩ := wrote.config
      refine .of_steps (out₁ := []) (.single step) wrote ?_
      have lengths := congrArg List.length whole
      rw [List.length_append, List.length_append, Block.gathered_length, gatheredLength] at lengths
      rw [← whole, ← tblock] at ready ⊢
      rw [← tstrong]
      obtain ⟨hsnk, hhash⟩ := ready
      rw [← tsnk, ← tstrong] at hsnk
      exact ih (2 * y.length + t.fill.toNat) (by omega) (stepKeepsTheInvariant _ _ hs step) tphase tsrc
        ⟨hsnk, thash.trans hhash⟩ rfl

/-! ### The whole run -/

/-- The header actions, with the sink ready for them, write the header (42_generate_pipeline R152). -/
theorem header_steps {s : State} {q : List SnkAnswer} (hp : s.phase = .hdr0) (ready : s.snk = .ok :: .ok :: .ok :: q) :
    ∃ t, ReflTransGen StepsTo s t ∧ WritesTo s t (signatureHeader s.blockLen s.strongLen) ∧ t.phase = .fill ∧
      t.fill = 0#32 ∧ t.src = s.src ∧ t.snk = q ∧ t.hashReady = s.hashReady := by
  obtain ⟨t₁, hdr0, ht₁⟩ : ∃ t, step s = .next t ∧ t = _ := ⟨_, ((headerActions s _).1 ready).1 hp, rfl⟩
  obtain ⟨t₂, hdr1, ht₂⟩ : ∃ t, step t₁ = .next t ∧ t = _ :=
    ⟨_, ((headerActions t₁ (.ok :: q)).1 (by rw [ht₁])).2.1 (by rw [ht₁]), rfl⟩
  refine ⟨_, .head hdr0 (.head hdr1 (.single (((headerActions t₂ q).1 (by rw [ht₂])).2.2 (by rw [ht₂])))), ?_⟩
  rw [ht₂, ht₁, signatureHeader, be32_magic]
  simp [WritesTo]

/-- A run from its first header action writes the signature of the bytes delivered (42_generate_pipeline R161). -/
theorem endsWith_of_hdr0 {s : State} {x : List Byte}
    (hs : Inv s) (hp : s.phase = .hdr0) (src : Delivers srcRest s.src x)
    (snk : s.snk = List.replicate (writesOf s.blockLen s.strongLen x.length) .ok ++ snkRest)
    (hash : s.hashReady = blockCount s.blockLen.toNat x.length + hashRest) :
    EndsWith s (signature s.blockLen s.strongLen x) srcRest snkRest hashRest := by
  rw [writesOf, Nat.add_comm] at snk
  obtain ⟨t, steps, wrote, tphase, tfill, tsrc, tsnk, thash⟩ := header_steps hp snk
  obtain ⟨tblock, tstrong⟩ := wrote.config
  have records := endsWith_of_fill (x := x) (srcRest := srcRest) (snkRest := snkRest) (hashRest := hashRest)
    (inv_of_steps hs steps) tphase (by rwa [tsrc])
  rw [gathered_of_empty tfill, tblock, tstrong] at records
  exact .of_steps steps wrote (records ⟨by rw [tsnk, tstrong]; rfl, thash.trans hash⟩)

end Run

/-- GENERATE on a legal configuration, taken whole from CMD, starts a run (42_generate_pipeline R151). -/
theorem step_generate {s : State} {rest : List Byte} (hp : s.phase = .idle)
    (front : s.taken ++ s.cmd = encode .generate ++ rest) (legal : legalConfig s.blockLen s.strongLen) :
    step s = .next { s with
      status := { s.status with done := false }, phase := .hdr0, taken := [], cmd := rest } :=
  (stepRunsTheEncodedCommand s .generate rest hp rfl front).trans (exec_generate_of_legal legal)

/-- Settles O54: the start action, then the run from its first header action. -/
theorem successfulRunWritesTheSignature : Obligations.SuccessfulRunWritesTheSignature := by
  intro s rest chunks srcRest snkRest hashRest hs hp front legal nonempty src snk hash
  have start := step_generate hp front legal
  obtain ⟨t, later, ht⟩ := endsWith_of_hdr0 (stepKeepsTheInvariant _ _ hs start) rfl
    (src ▸ delivers_of_chunks nonempty srcRest) snk hash
  obtain ⟨n, run⟩ := exists_run_of_steps (.head start later)
  have whole : srcExhaustionTerminated s.src → srcBytes s.src = chunks.flatten := fun h =>
    exhaustedSourceDeliversTheWholeInput s.src chunks srcRest h nonempty src
  refine ⟨n, t, run, ?_⟩
  rw [ht]
  refine ⟨⟨rfl, rfl, rfl⟩, rfl, rfl, rfl, rfl, rfl, rfl, rfl, rfl, rfl, rfl, ?_, whole⟩
  rw [List.length_append, signature_length legal.2.2, Nat.add_assoc]

end Sys2Proof
end

section
/-! PROOFS on the exceptions: no reachable state stops, an `Err` enters the fault state, a missing answer holds the block,
and FAULT is left by `rst` alone (60_exceptions R194 to R199, R202, R211). -/

namespace Sys2Proof

open Machine

/-! ### Reachable states -/

/-- The invariant holds of every reachable state (70_reset_and_hazards R222). -/
theorem inv_of_reachable {s : State} (h : Reachable s) : Inv s := by
  induction h with
  | reset => exact resetMeetsTheInvariant
  | step s t _ e ih => exact stepKeepsTheInvariant s t ih e
  | env s a _ ih => exact environmentKeepsTheInvariant s a ih

/-- Settles O18: a reachable state meets the invariant, under which no step stops. -/
theorem reachableStatesNeverStop : Obligations.ReachableStatesNeverStop :=
  fun s h => noStopUnderTheInvariant s (inv_of_reachable h)

/-! ### Reads -/

/-- The fill action on `Err` (60_exceptions R194). -/
theorem step_fill_of_err {s : State} {e : Word} {q : List SrcAnswer} (hp : s.phase = .fill)
    (free : s.fill.toNat < s.blockLen.toNat) (h : s.src = .err e :: q) :
    step s = .next (s.readFailed (s.blockLen - s.fill) q e) := by
  rcases step_fill_cases s hp with ⟨_, _⟩ | ⟨_, ⟨e', _⟩ | ⟨_, e', _⟩ | ⟨_, _, e', _⟩ | ⟨_, _, e', hstep⟩⟩
  case inl => omega
  all_goals rw [h] at e'; cases e'
  exact hstep

/-- The fill action while the source has no answer (60_exceptions R202). -/
theorem step_fill_of_waiting {s : State} (hp : s.phase = .fill) (free : s.fill.toNat < s.blockLen.toNat)
    (h : s.src = []) : step s = .next s := by
  rcases step_fill_cases s hp with ⟨_, _⟩ | ⟨_, ⟨_, hstep⟩ | ⟨_, e, _⟩ | ⟨_, _, e, _⟩ | ⟨_, _, e, _⟩⟩
  case inl => omega
  case inr.inl => exact hstep
  all_goals rw [h] at e; cases e

/-- Settles O42: a failed read raises the fault and touches neither the sink's answers, HASH nor W. -/
theorem sourceErrorEntersFault : Obligations.SourceErrorEntersFault := by
  intro s e q hp free h
  exact ⟨_, step_fill_of_err hp free h, faultedBy_readFailed s _ q e, rfl, rfl, rfl, rfl, rfl⟩

/-! ### Writes -/

/-- The next action is one write: a header action, or the weak action within the bounds of BUF
(42_generate_pipeline R152, R156). -/
def Machine.State.atLoneWrite (s : State) : Prop :=
  s.phase = .hdr0 ∨ s.phase = .hdr1 ∨ s.phase = .hdr2 ∨
    (s.phase = .weak ∧ s.fill.toNat ≤ s.blockLen.toNat)

theorem step_of_loneWrite {s : State} (h : s.atLoneWrite) :
    ∃ bytes k, step s = .next (s.settle (writeThen s.answers s.toBlock bytes k)) := by
  rcases h with hp | hp | hp | ⟨hp, bound⟩
  · exact ⟨_, _, step_hdr0 s hp⟩
  · exact ⟨_, _, step_hdr1 s hp⟩
  · exact ⟨_, _, step_hdr2 s hp⟩
  · exact ⟨_, _, step_weak hp bound⟩

/-- A write answered `Err` (60_exceptions R195). -/
theorem settle_writeThen_err {s : State} {e : Word} {q : List SnkAnswer} (h : s.snk = .err e :: q)
    (bytes : List Byte) (k : Block → Block) :
    s.settle (writeThen s.answers s.toBlock bytes k) = s.writeFailed q bytes e := by
  rcases settle_writeThen_cases s bytes k with ⟨e', _⟩ | ⟨_, e', _⟩ | ⟨_, _, e', h2⟩ <;> (rw [h] at e'; cases e')
  exact h2

/-- A write while the sink has no answer (60_exceptions R202). -/
theorem settle_writeThen_waiting {s : State} (h : s.snk = []) (bytes : List Byte) (k : Block → Block) :
    s.settle (writeThen s.answers s.toBlock bytes k) = s := by
  rcases settle_writeThen_cases s bytes k with ⟨_, h2⟩ | ⟨_, e, _⟩ | ⟨_, _, e, _⟩
  case inl => exact h2
  all_goals rw [h] at e; cases e

/-- An action that is one write holds while the sink has no answer (60_exceptions R202). -/
theorem step_loneWrite_of_waiting {s : State} (hs : s.snk = []) (h : s.atLoneWrite) : step s = .next s := by
  obtain ⟨bytes, k, hstep⟩ := step_of_loneWrite h
  rw [hstep, settle_writeThen_waiting hs]

/-- The strong action when HASH answers and the sink answers `Err` (60_exceptions R195). -/
theorem step_strong_of_err {s : State} {e : Word} {q : List SnkAnswer} (hp : s.phase = .strong)
    (bound : s.fill.toNat ≤ s.blockLen.toNat) (hz : s.strongLen ≠ 0#32) (ready : s.hashReady ≠ 0)
    (hq : s.snk = .err e :: q) :
    ∃ n, step s = .next ((s.hashed n).writeFailed q (strongDigest s.strongLen s.gathered) e) := by
  rcases step_strong_cases s hp with ⟨beyond, _⟩ | ⟨_, ⟨noHash, _⟩ | ⟨n, _, ⟨zero, _⟩ | ⟨_, answered⟩⟩⟩
  · omega
  · exact absurd noHash ready
  · exact absurd zero hz
  · rcases answered with ⟨e', _⟩ | ⟨_, e', _⟩ | ⟨_, _, e', hstep⟩ <;> (rw [hq] at e'; cases e')
    exact ⟨n, hstep⟩

/-- The strong action while HASH has no answer (60_exceptions R202). -/
theorem step_strong_of_noHash {s : State} (hp : s.phase = .strong) (bound : s.fill.toNat ≤ s.blockLen.toNat)
    (waits : s.hashReady = 0) : step s = .next s := by
  rcases step_strong_cases s hp with ⟨beyond, _⟩ | ⟨_, ⟨_, hstep⟩ | ⟨n, ready, _⟩⟩
  · omega
  · exact hstep
  · omega

/-- The strong action with bytes to write while the sink has no answer, whether or not HASH has one (60_exceptions R202). -/
theorem step_strong_of_noSink {s : State} (hp : s.phase = .strong) (bound : s.fill.toNat ≤ s.blockLen.toNat)
    (hz : s.strongLen ≠ 0#32) (hs : s.snk = []) : step s = .next s := by
  rcases step_strong_cases s hp with ⟨beyond, _⟩ | ⟨_, ⟨_, hstep⟩ | ⟨n, _, ⟨zero, _⟩ | ⟨_, answered⟩⟩⟩
  · omega
  · exact hstep
  · exact absurd zero hz
  · rcases answered with ⟨_, hstep⟩ | ⟨_, e, _⟩ | ⟨_, _, e, _⟩
    · exact hstep
    all_goals rw [hs] at e; cases e

/-- Settles O46: a failed write raises the fault, in STRONG after the hash's answer is taken, else with nothing taken but
the sink's answer. -/
theorem sinkErrorEntersFault : Obligations.SinkErrorEntersFault := by
  intro s e q h writes
  have split : s.atLoneWrite ∨
      (s.phase = .strong ∧ s.fill.toNat ≤ s.blockLen.toNat ∧ s.strongLen ≠ 0#32 ∧ s.hashReady ≠ 0) := by
    simpa only [State.atLoneWrite, or_assoc] using writes
  rcases split with lone | ⟨hp, bound, hz, ready⟩
  · obtain ⟨bytes, k, hstep⟩ := step_of_loneWrite lone
    rw [settle_writeThen_err h] at hstep
    exact ⟨_, hstep, faultedBy_writeFailed s q bytes e, rfl, rfl, fun _ => rfl, fun _ => rfl⟩
  · obtain ⟨n, hstep⟩ := step_strong_of_err hp bound hz ready h
    exact ⟨_, hstep, faultedBy_writeFailed (s.hashed n) q _ e, rfl, rfl, fun _ => rfl, fun strong => absurd hp strong⟩

/-! ### Waiting, and the fault state -/

/-- Settles O47: a read, a lone write and the strong action each hold while a port they need has no answer. -/
theorem waitingActionHolds : Obligations.WaitingActionHolds := by
  intro s
  refine ⟨fun hs hp free => step_fill_of_waiting hp free hs, fun hs hp => ?_, fun hs hp bound => ?_,
    fun hs hp bound hz => step_strong_of_noSink hp bound hz hs,
    fun noHash hp bound => step_strong_of_noHash hp bound noHash⟩
  · exact step_loneWrite_of_waiting hs (hp.imp_right (Or.imp_right .inl))
  · exact step_loneWrite_of_waiting hs (.inr (.inr (.inr ⟨hp, bound⟩)))

/-- No action of the outside but `rst` reaches phase, STATUS or ERRINFO (60_exceptions R199). -/
theorem Machine.State.env_faultRegisters (s : State) {a : EnvAction} (h : a ≠ .rst) :
    (s.env a).phase = s.phase ∧ (s.env a).status = s.status ∧ (s.env a).errinfo = s.errinfo := by
  cases a with
  | rst => exact absurd rfl h
  | _ => exact ⟨rfl, rfl, rfl⟩

/-- Settles O13: a step in FAULT is the identity, and only `rst` writes the registers of the fault. -/
theorem faultStateIsSticky : Obligations.FaultStateIsSticky := by
  intro s hp
  refine ⟨step_fault s hp, fun a ha => ?_⟩
  obtain ⟨phase, status, errinfo⟩ := s.env_faultRegisters ha
  exact ⟨phase.trans hp, status, errinfo⟩

end Sys2Proof
end

section
/-! PROOFS on `rst`: the block takes the values of the reset state, the environment keeps its own. -/

namespace Sys2Proof

open Machine

/-- Settles O59: `rst` gives the block of the reset state, whose values are R42's; no other action writes phase, and
a step in FAULT is the identity. -/
theorem rstResetsTheBlock : Obligations.RstResetsTheBlock := by
  intro s
  obtain ⟨r, -, blockLen, strongLen, status, errinfo, phase, fill, taken, cmd, rsp, faultOut, causeOut, errinfoOut⟩ :=
    resetValues
  have environment : (s.env .rst).toEnvironment = s.toEnvironment := s.rst_toEnvironment
  exact ⟨r, blockLen, strongLen, status, errinfo, phase, fill, taken, cmd, rsp, faultOut, causeOut, errinfoOut,
    congrArg Environment.src environment, congrArg Environment.snk environment,
    congrArg Environment.hashReady environment, congrArg Environment.sink environment,
    fun _ ha => (s.env_faultRegisters ha).left, step_fault s⟩

end Sys2Proof
end
